-- ==== Sys2Proof/Word.lean ====
section
/-! DEFINITION. The word types of the H08A: bytes, program words and the two kinds of address. -/

namespace Sys2Proof

/-- A data byte (`10` R20: the accumulator and every data cell are 8 bits wide). -/
abbrev Byte := BitVec 8

/-- A program word (`30` R102). -/
abbrev Word := BitVec 16

/-- A data address: 3 bank bits over 8 bits of f (`20` R76). -/
abbrev DataAddr := BitVec 11

/-- A program-memory word address (`10` R21). -/
abbrev ProgAddr := BitVec 14

/-- The number of program word addresses, 4000H (`10` R21: 0000H to 3FFFH). -/
abbrev progSpace : Nat := 16384

/-- The highest data address an operand may name, 04FFH (`00` R5, `DATA_TOP`). -/
abbrev dataTop : Nat := 1279

end Sys2Proof
end

