-- ==== Sys2Proof/Syntax.lean ====
section
/-! DEFINITION. The abstract syntax: one constructor of `Instr` for each of the 67 rows of
`spec/opcode_table.json` (`30` R104), with the operand shapes of `30` R103, and the packing of an
instruction's operands into one number, which the decoder and encoder use. -/

namespace Sys2Proof

/-- The destination select d: 0 = W, 1 = the file register (`20` R80). -/
inductive Dest where
  | w
  | f
  deriving DecidableEq, Repr

/-- The addressing select a: 0 = address 000H + f, 1 = the bank in BSRCN (`20` R76). -/
inductive Bank where
  | zero
  | bsr
  deriving DecidableEq, Repr

/-- The operand f of LDPR: which file select register is loaded (`41` R241). -/
inductive FsrSel where
  | fsr0
  | fsr1
  deriving DecidableEq, Repr

/-- The operand formats of `30` R103. -/
inductive Format where
  | fda | fa | fba | k8 | k3 | k11f | fsfd | n14s | n14 | k14 | rel8 | rel11 | s | none
  deriving DecidableEq, Repr

/-- The names of the 67 forms, in the order of the table of `30` R104. -/
inductive Op where
  | addc | addf | addl | andf | andl | arlc | arrc | clrf | comf | cpse
  | cpsg | cpsl | dcf | dcsuz | dcsz | inf | insuz | insz | iorf | iorl
  | lbsr | ldpr | mulf | mull | mvf | mvff | mvl | retl | rlf | rlfc
  | rrf | rrfc | setf | subc | subf | subl | swpf | tfsz | xorf | xorl
  | call | cwdt | idle | jc | jmp | jn | jnc | jnn | jno | jnz
  | jo | jz | nop | pop | rcall | ret | reti | rj | slp | bcf
  | bsf | btgf | btss | btsz | mvlp | tblr | tblrInc
  deriving DecidableEq, Repr

/-- The instructions (`30` R104). A displacement n of a relative form is a two's-complement field of
the format's width (`30` R103, R106); s is the shadow select. -/
inductive Instr where
  /-- ADDC f,d,a (`40` R200). -/
  | addc (f : Byte) (d : Dest) (a : Bank)
  /-- ADDF f,d,a (`40` R201). -/
  | addf (f : Byte) (d : Dest) (a : Bank)
  /-- ADDL k (`41` R230). -/
  | addl (k : Byte)
  /-- ANDF f,d,a (`40` R202). -/
  | andf (f : Byte) (d : Dest) (a : Bank)
  /-- ANDL k (`41` R231). -/
  | andl (k : Byte)
  /-- ARLC f,d,a (`40` R203). -/
  | arlc (f : Byte) (d : Dest) (a : Bank)
  /-- ARRC f,d,a (`40` R204). -/
  | arrc (f : Byte) (d : Dest) (a : Bank)
  /-- CLRF f,a (`40` R205). -/
  | clrf (f : Byte) (a : Bank)
  /-- COMF f,d,a (`40` R206). -/
  | comf (f : Byte) (d : Dest) (a : Bank)
  /-- CPSE f,a (`42` R260). -/
  | cpse (f : Byte) (a : Bank)
  /-- CPSG f,a (`42` R261). -/
  | cpsg (f : Byte) (a : Bank)
  /-- CPSL f,a (`42` R262). -/
  | cpsl (f : Byte) (a : Bank)
  /-- DCF f,d,a (`40` R207). -/
  | dcf (f : Byte) (d : Dest) (a : Bank)
  /-- DCSUZ f,d,a (`42` R263). -/
  | dcsuz (f : Byte) (d : Dest) (a : Bank)
  /-- DCSZ f,d,a (`42` R264). -/
  | dcsz (f : Byte) (d : Dest) (a : Bank)
  /-- INF f,d,a (`40` R208). -/
  | inf (f : Byte) (d : Dest) (a : Bank)
  /-- INSUZ f,d,a (`42` R265). -/
  | insuz (f : Byte) (d : Dest) (a : Bank)
  /-- INSZ f,d,a (`42` R266). -/
  | insz (f : Byte) (d : Dest) (a : Bank)
  /-- IORF f,d,a (`40` R209). -/
  | iorf (f : Byte) (d : Dest) (a : Bank)
  /-- IORL k (`41` R232). -/
  | iorl (k : Byte)
  /-- LBSR k (`41` R240). -/
  | lbsr (k : BitVec 3)
  /-- LDPR k,f (`41` R241). -/
  | ldpr (k : DataAddr) (f : FsrSel)
  /-- MULF f,a (`41` R236). -/
  | mulf (f : Byte) (a : Bank)
  /-- MULL k (`41` R237). -/
  | mull (k : Byte)
  /-- MVF f,d,a (`41` R238). -/
  | mvf (f : Byte) (d : Dest) (a : Bank)
  /-- MVFF fs,fd (`41` R239). -/
  | mvff (fs fd : DataAddr)
  /-- MVL k (`41` R235). -/
  | mvl (k : Byte)
  /-- RETL k (`43` R286). -/
  | retl (k : Byte)
  /-- RLF f,d,a (`40` R210). -/
  | rlf (f : Byte) (d : Dest) (a : Bank)
  /-- RLFC f,d,a (`40` R211). -/
  | rlfc (f : Byte) (d : Dest) (a : Bank)
  /-- RRF f,d,a (`40` R212). -/
  | rrf (f : Byte) (d : Dest) (a : Bank)
  /-- RRFC f,d,a (`40` R213). -/
  | rrfc (f : Byte) (d : Dest) (a : Bank)
  /-- SETF f,a (`40` R214). -/
  | setf (f : Byte) (a : Bank)
  /-- SUBC f,d,a (`40` R215). -/
  | subc (f : Byte) (d : Dest) (a : Bank)
  /-- SUBF f,d,a (`40` R216). -/
  | subf (f : Byte) (d : Dest) (a : Bank)
  /-- SUBL k (`41` R233). -/
  | subl (k : Byte)
  /-- SWPF f,d,a (`40` R217). -/
  | swpf (f : Byte) (d : Dest) (a : Bank)
  /-- TFSZ f,a (`42` R267). -/
  | tfsz (f : Byte) (a : Bank)
  /-- XORF f,d,a (`40` R218). -/
  | xorf (f : Byte) (d : Dest) (a : Bank)
  /-- XORL k (`41` R234). -/
  | xorl (k : Byte)
  /-- CALL n,s (`43` R280). -/
  | call (n : ProgAddr) (s : Bool)
  /-- CWDT (`43` R305). -/
  | cwdt
  /-- IDLE (`43` R306). -/
  | idle
  /-- JC n (`43` R290). -/
  | jc (n : BitVec 8)
  /-- JMP n (`43` R288). -/
  | jmp (n : ProgAddr)
  /-- JN n (`43` R292). -/
  | jn (n : BitVec 8)
  /-- JNC n (`43` R291). -/
  | jnc (n : BitVec 8)
  /-- JNN n (`43` R293). -/
  | jnn (n : BitVec 8)
  /-- JNO n (`43` R295). -/
  | jno (n : BitVec 8)
  /-- JNZ n (`43` R297). -/
  | jnz (n : BitVec 8)
  /-- JO n (`43` R294). -/
  | jo (n : BitVec 8)
  /-- JZ n (`43` R296). -/
  | jz (n : BitVec 8)
  /-- NOP (`43` R303). -/
  | nop
  /-- POP (`43` R304). -/
  | pop
  /-- RCALL n (`43` R281). -/
  | rcall (n : BitVec 11)
  /-- RET s (`43` R284). -/
  | ret (s : Bool)
  /-- RETI s (`43` R285). -/
  | reti (s : Bool)
  /-- RJ n (`43` R289). -/
  | rj (n : BitVec 11)
  /-- SLP (`43` R307). -/
  | slp
  /-- BCF f,b,a (`44` R320). -/
  | bcf (f : Byte) (b : BitVec 3) (a : Bank)
  /-- BSF f,b,a (`44` R321). -/
  | bsf (f : Byte) (b : BitVec 3) (a : Bank)
  /-- BTGF f,b,a (`44` R322). -/
  | btgf (f : Byte) (b : BitVec 3) (a : Bank)
  /-- BTSS f,b,a (`44` R323). -/
  | btss (f : Byte) (b : BitVec 3) (a : Bank)
  /-- BTSZ f,b,a (`44` R324). -/
  | btsz (f : Byte) (b : BitVec 3) (a : Bank)
  /-- MVLP k (`45` R330). -/
  | mvlp (k : ProgAddr)
  /-- TBLR * (`45` R331). -/
  | tblr
  /-- TBLR *+ (`45` R332). -/
  | tblrInc
  deriving DecidableEq, Repr

/-- The form an instruction belongs to. -/
def Instr.op : Instr → Op
  | .addc _ _ _ => .addc
  | .addf _ _ _ => .addf
  | .addl _ => .addl
  | .andf _ _ _ => .andf
  | .andl _ => .andl
  | .arlc _ _ _ => .arlc
  | .arrc _ _ _ => .arrc
  | .clrf _ _ => .clrf
  | .comf _ _ _ => .comf
  | .cpse _ _ => .cpse
  | .cpsg _ _ => .cpsg
  | .cpsl _ _ => .cpsl
  | .dcf _ _ _ => .dcf
  | .dcsuz _ _ _ => .dcsuz
  | .dcsz _ _ _ => .dcsz
  | .inf _ _ _ => .inf
  | .insuz _ _ _ => .insuz
  | .insz _ _ _ => .insz
  | .iorf _ _ _ => .iorf
  | .iorl _ => .iorl
  | .lbsr _ => .lbsr
  | .ldpr _ _ => .ldpr
  | .mulf _ _ => .mulf
  | .mull _ => .mull
  | .mvf _ _ _ => .mvf
  | .mvff _ _ => .mvff
  | .mvl _ => .mvl
  | .retl _ => .retl
  | .rlf _ _ _ => .rlf
  | .rlfc _ _ _ => .rlfc
  | .rrf _ _ _ => .rrf
  | .rrfc _ _ _ => .rrfc
  | .setf _ _ => .setf
  | .subc _ _ _ => .subc
  | .subf _ _ _ => .subf
  | .subl _ => .subl
  | .swpf _ _ _ => .swpf
  | .tfsz _ _ => .tfsz
  | .xorf _ _ _ => .xorf
  | .xorl _ => .xorl
  | .call _ _ => .call
  | .cwdt => .cwdt
  | .idle => .idle
  | .jc _ => .jc
  | .jmp _ => .jmp
  | .jn _ => .jn
  | .jnc _ => .jnc
  | .jnn _ => .jnn
  | .jno _ => .jno
  | .jnz _ => .jnz
  | .jo _ => .jo
  | .jz _ => .jz
  | .nop => .nop
  | .pop => .pop
  | .rcall _ => .rcall
  | .ret _ => .ret
  | .reti _ => .reti
  | .rj _ => .rj
  | .slp => .slp
  | .bcf _ _ _ => .bcf
  | .bsf _ _ _ => .bsf
  | .btgf _ _ _ => .btgf
  | .btss _ _ _ => .btss
  | .btsz _ _ _ => .btsz
  | .mvlp _ => .mvlp
  | .tblr => .tblr
  | .tblrInc => .tblrInc

/-- The operand format of each form (`30` R104). -/
def Op.format : Op → Format
  | .addc => .fda
  | .addf => .fda
  | .addl => .k8
  | .andf => .fda
  | .andl => .k8
  | .arlc => .fda
  | .arrc => .fda
  | .clrf => .fa
  | .comf => .fda
  | .cpse => .fa
  | .cpsg => .fa
  | .cpsl => .fa
  | .dcf => .fda
  | .dcsuz => .fda
  | .dcsz => .fda
  | .inf => .fda
  | .insuz => .fda
  | .insz => .fda
  | .iorf => .fda
  | .iorl => .k8
  | .lbsr => .k3
  | .ldpr => .k11f
  | .mulf => .fa
  | .mull => .k8
  | .mvf => .fda
  | .mvff => .fsfd
  | .mvl => .k8
  | .retl => .k8
  | .rlf => .fda
  | .rlfc => .fda
  | .rrf => .fda
  | .rrfc => .fda
  | .setf => .fa
  | .subc => .fda
  | .subf => .fda
  | .subl => .k8
  | .swpf => .fda
  | .tfsz => .fa
  | .xorf => .fda
  | .xorl => .k8
  | .call => .n14s
  | .cwdt => .none
  | .idle => .none
  | .jc => .rel8
  | .jmp => .n14
  | .jn => .rel8
  | .jnc => .rel8
  | .jnn => .rel8
  | .jno => .rel8
  | .jnz => .rel8
  | .jo => .rel8
  | .jz => .rel8
  | .nop => .none
  | .pop => .none
  | .rcall => .rel11
  | .ret => .s
  | .reti => .s
  | .rj => .rel11
  | .slp => .none
  | .bcf => .fba
  | .bsf => .fba
  | .btgf => .fba
  | .btss => .fba
  | .btsz => .fba
  | .mvlp => .k14
  | .tblr => .none
  | .tblrInc => .none

/-- How many operand bits a format has (`30` R103). -/
def Format.width : Format → Nat
  | .fda => 10 | .fa => 9 | .fba => 12 | .k8 => 8 | .k3 => 3 | .k11f => 12 | .fsfd => 22
  | .n14s => 15 | .n14 => 14 | .k14 => 14 | .rel8 => 8 | .rel11 => 11 | .s => 1 | .none => 0

/-- The length in program words (`30` R101: two for CALL, JMP, LDPR, MVFF, MVLP, one for the rest). -/
def Format.words : Format → Nat
  | .k11f | .fsfd | .n14s | .n14 | .k14 => 2
  | .fda | .fa | .fba | .k8 | .k3 | .rel8 | .rel11 | .s | .none => 1

/-- The length of a form in program words (`30` R101). -/
def Op.words (o : Op) : Nat := o.format.words

/-- The length of an instruction in program words: `len` of `30` R101. -/
def Instr.words (i : Instr) : Nat := i.op.words

/-- d as its operand bit. -/
def Dest.bit : Dest → Nat
  | .w => 0
  | .f => 1

/-- a as its operand bit. -/
def Bank.bit : Bank → Nat
  | .zero => 0
  | .bsr => 1

/-- LDPR's f as its operand bit. -/
def FsrSel.bit : FsrSel → Nat
  | .fsr0 => 0
  | .fsr1 => 1

/-- d from a number's lowest bit. -/
def Dest.ofBit (n : Nat) : Dest := if n % 2 = 0 then .w else .f

/-- a from a number's lowest bit. -/
def Bank.ofBit (n : Nat) : Bank := if n % 2 = 0 then .zero else .bsr

/-- LDPR's f from a number's lowest bit. -/
def FsrSel.ofBit (n : Nat) : FsrSel := if n % 2 = 0 then .fsr0 else .fsr1

/-- The operands of an instruction as one number below `2 ^ width`: the operands of the Syntax line,
the first in the lowest bits. It is a numbering of the model's own (notes/assumptions/2.md): where the bits
go in the instruction words is the opcode table's matter. -/
def Instr.operands : Instr → Nat
  | .addc f d a => f.toNat + 256 * d.bit + 512 * a.bit
  | .addf f d a => f.toNat + 256 * d.bit + 512 * a.bit
  | .addl k => k.toNat
  | .andf f d a => f.toNat + 256 * d.bit + 512 * a.bit
  | .andl k => k.toNat
  | .arlc f d a => f.toNat + 256 * d.bit + 512 * a.bit
  | .arrc f d a => f.toNat + 256 * d.bit + 512 * a.bit
  | .clrf f a => f.toNat + 256 * a.bit
  | .comf f d a => f.toNat + 256 * d.bit + 512 * a.bit
  | .cpse f a => f.toNat + 256 * a.bit
  | .cpsg f a => f.toNat + 256 * a.bit
  | .cpsl f a => f.toNat + 256 * a.bit
  | .dcf f d a => f.toNat + 256 * d.bit + 512 * a.bit
  | .dcsuz f d a => f.toNat + 256 * d.bit + 512 * a.bit
  | .dcsz f d a => f.toNat + 256 * d.bit + 512 * a.bit
  | .inf f d a => f.toNat + 256 * d.bit + 512 * a.bit
  | .insuz f d a => f.toNat + 256 * d.bit + 512 * a.bit
  | .insz f d a => f.toNat + 256 * d.bit + 512 * a.bit
  | .iorf f d a => f.toNat + 256 * d.bit + 512 * a.bit
  | .iorl k => k.toNat
  | .lbsr k => k.toNat
  | .ldpr k f => k.toNat + 2048 * f.bit
  | .mulf f a => f.toNat + 256 * a.bit
  | .mull k => k.toNat
  | .mvf f d a => f.toNat + 256 * d.bit + 512 * a.bit
  | .mvff fs fd => fs.toNat + 2048 * fd.toNat
  | .mvl k => k.toNat
  | .retl k => k.toNat
  | .rlf f d a => f.toNat + 256 * d.bit + 512 * a.bit
  | .rlfc f d a => f.toNat + 256 * d.bit + 512 * a.bit
  | .rrf f d a => f.toNat + 256 * d.bit + 512 * a.bit
  | .rrfc f d a => f.toNat + 256 * d.bit + 512 * a.bit
  | .setf f a => f.toNat + 256 * a.bit
  | .subc f d a => f.toNat + 256 * d.bit + 512 * a.bit
  | .subf f d a => f.toNat + 256 * d.bit + 512 * a.bit
  | .subl k => k.toNat
  | .swpf f d a => f.toNat + 256 * d.bit + 512 * a.bit
  | .tfsz f a => f.toNat + 256 * a.bit
  | .xorf f d a => f.toNat + 256 * d.bit + 512 * a.bit
  | .xorl k => k.toNat
  | .call n s => n.toNat + 16384 * s.toNat
  | .cwdt => 0
  | .idle => 0
  | .jc n => n.toNat
  | .jmp n => n.toNat
  | .jn n => n.toNat
  | .jnc n => n.toNat
  | .jnn n => n.toNat
  | .jno n => n.toNat
  | .jnz n => n.toNat
  | .jo n => n.toNat
  | .jz n => n.toNat
  | .nop => 0
  | .pop => 0
  | .rcall n => n.toNat
  | .ret s => s.toNat
  | .reti s => s.toNat
  | .rj n => n.toNat
  | .slp => 0
  | .bcf f b a => f.toNat + 256 * b.toNat + 2048 * a.bit
  | .bsf f b a => f.toNat + 256 * b.toNat + 2048 * a.bit
  | .btgf f b a => f.toNat + 256 * b.toNat + 2048 * a.bit
  | .btss f b a => f.toNat + 256 * b.toNat + 2048 * a.bit
  | .btsz f b a => f.toNat + 256 * b.toNat + 2048 * a.bit
  | .mvlp k => k.toNat
  | .tblr => 0
  | .tblrInc => 0

/-- The instruction of a form whose operands are packed in v: the inverse of `Instr.operands`. -/
def Op.unpack : Op → Nat → Instr
  | .addc, v => .addc (.ofNat 8 v) (.ofBit (v / 256)) (.ofBit (v / 512))
  | .addf, v => .addf (.ofNat 8 v) (.ofBit (v / 256)) (.ofBit (v / 512))
  | .addl, v => .addl (.ofNat 8 v)
  | .andf, v => .andf (.ofNat 8 v) (.ofBit (v / 256)) (.ofBit (v / 512))
  | .andl, v => .andl (.ofNat 8 v)
  | .arlc, v => .arlc (.ofNat 8 v) (.ofBit (v / 256)) (.ofBit (v / 512))
  | .arrc, v => .arrc (.ofNat 8 v) (.ofBit (v / 256)) (.ofBit (v / 512))
  | .clrf, v => .clrf (.ofNat 8 v) (.ofBit (v / 256))
  | .comf, v => .comf (.ofNat 8 v) (.ofBit (v / 256)) (.ofBit (v / 512))
  | .cpse, v => .cpse (.ofNat 8 v) (.ofBit (v / 256))
  | .cpsg, v => .cpsg (.ofNat 8 v) (.ofBit (v / 256))
  | .cpsl, v => .cpsl (.ofNat 8 v) (.ofBit (v / 256))
  | .dcf, v => .dcf (.ofNat 8 v) (.ofBit (v / 256)) (.ofBit (v / 512))
  | .dcsuz, v => .dcsuz (.ofNat 8 v) (.ofBit (v / 256)) (.ofBit (v / 512))
  | .dcsz, v => .dcsz (.ofNat 8 v) (.ofBit (v / 256)) (.ofBit (v / 512))
  | .inf, v => .inf (.ofNat 8 v) (.ofBit (v / 256)) (.ofBit (v / 512))
  | .insuz, v => .insuz (.ofNat 8 v) (.ofBit (v / 256)) (.ofBit (v / 512))
  | .insz, v => .insz (.ofNat 8 v) (.ofBit (v / 256)) (.ofBit (v / 512))
  | .iorf, v => .iorf (.ofNat 8 v) (.ofBit (v / 256)) (.ofBit (v / 512))
  | .iorl, v => .iorl (.ofNat 8 v)
  | .lbsr, v => .lbsr (.ofNat 3 v)
  | .ldpr, v => .ldpr (.ofNat 11 v) (.ofBit (v / 2048))
  | .mulf, v => .mulf (.ofNat 8 v) (.ofBit (v / 256))
  | .mull, v => .mull (.ofNat 8 v)
  | .mvf, v => .mvf (.ofNat 8 v) (.ofBit (v / 256)) (.ofBit (v / 512))
  | .mvff, v => .mvff (.ofNat 11 v) (.ofNat 11 (v / 2048))
  | .mvl, v => .mvl (.ofNat 8 v)
  | .retl, v => .retl (.ofNat 8 v)
  | .rlf, v => .rlf (.ofNat 8 v) (.ofBit (v / 256)) (.ofBit (v / 512))
  | .rlfc, v => .rlfc (.ofNat 8 v) (.ofBit (v / 256)) (.ofBit (v / 512))
  | .rrf, v => .rrf (.ofNat 8 v) (.ofBit (v / 256)) (.ofBit (v / 512))
  | .rrfc, v => .rrfc (.ofNat 8 v) (.ofBit (v / 256)) (.ofBit (v / 512))
  | .setf, v => .setf (.ofNat 8 v) (.ofBit (v / 256))
  | .subc, v => .subc (.ofNat 8 v) (.ofBit (v / 256)) (.ofBit (v / 512))
  | .subf, v => .subf (.ofNat 8 v) (.ofBit (v / 256)) (.ofBit (v / 512))
  | .subl, v => .subl (.ofNat 8 v)
  | .swpf, v => .swpf (.ofNat 8 v) (.ofBit (v / 256)) (.ofBit (v / 512))
  | .tfsz, v => .tfsz (.ofNat 8 v) (.ofBit (v / 256))
  | .xorf, v => .xorf (.ofNat 8 v) (.ofBit (v / 256)) (.ofBit (v / 512))
  | .xorl, v => .xorl (.ofNat 8 v)
  | .call, v => .call (.ofNat 14 v) (v / 16384 % 2 == 1)
  | .cwdt, _ => .cwdt
  | .idle, _ => .idle
  | .jc, v => .jc (.ofNat 8 v)
  | .jmp, v => .jmp (.ofNat 14 v)
  | .jn, v => .jn (.ofNat 8 v)
  | .jnc, v => .jnc (.ofNat 8 v)
  | .jnn, v => .jnn (.ofNat 8 v)
  | .jno, v => .jno (.ofNat 8 v)
  | .jnz, v => .jnz (.ofNat 8 v)
  | .jo, v => .jo (.ofNat 8 v)
  | .jz, v => .jz (.ofNat 8 v)
  | .nop, _ => .nop
  | .pop, _ => .pop
  | .rcall, v => .rcall (.ofNat 11 v)
  | .ret, v => .ret (v % 2 == 1)
  | .reti, v => .reti (v % 2 == 1)
  | .rj, v => .rj (.ofNat 11 v)
  | .slp, _ => .slp
  | .bcf, v => .bcf (.ofNat 8 v) (.ofNat 3 (v / 256)) (.ofBit (v / 2048))
  | .bsf, v => .bsf (.ofNat 8 v) (.ofNat 3 (v / 256)) (.ofBit (v / 2048))
  | .btgf, v => .btgf (.ofNat 8 v) (.ofNat 3 (v / 256)) (.ofBit (v / 2048))
  | .btss, v => .btss (.ofNat 8 v) (.ofNat 3 (v / 256)) (.ofBit (v / 2048))
  | .btsz, v => .btsz (.ofNat 8 v) (.ofNat 3 (v / 256)) (.ofBit (v / 2048))
  | .mvlp, v => .mvlp (.ofNat 14 v)
  | .tblr, _ => .tblr
  | .tblrInc, _ => .tblrInc

end Sys2Proof
end

