-- ==== Sys2Proof/Config.lean ====
section
/-! DEFINITION. What a product fixes (the record `Cfg` of `00` R5, plain data) and the values no rule
fixes (opaque constants: nothing in Lean can evaluate one or prove which value it has). -/

namespace Sys2Proof

/-- The named registers of data space (`10` R43). WREG is not among them: its address 02CH is fixed. -/
inductive Sfr where
  | status | bsrcn | fsr0h | fsr0l | fsr1h | fsr1l | indf0 | indf1
  | prodh | prodl | tblptrh | tblptrl | tbldh | tbldl | tosh | tosl
  | stkptr | pstatus | pclatl | sbmset1
  /-- The register that holds GIE (`10` R38). -/
  | gieReg
  deriving DecidableEq, Repr

/-- One row of an opcode table: a form, its fixed bits, and the instruction bit each operand bit sits at
(the operand bits from the lowest up, as `Instr.operands` packs them). Bits 0 to 15 are the first word,
16 to 31 the second. -/
structure EncRow where
  op : Op
  fixed : Nat
  places : List Nat
  deriving DecidableEq, Repr

/-- `Cfg.encode` (`00` R5, `92` D1) as plain data: an opcode table, and the images of any instructions the
table does not give, listed one by one. Every map of the right length that is injective is one of these
(notes/assumptions/2.md). -/
structure Encoding where
  /-- One row for each form. -/
  rows : List EncRow
  /-- Instructions with an image of their own: here the table's does not count. -/
  listed : List (Instr × List Word)
  deriving DecidableEq, Repr

/-- `Cfg.bitpos` (`00` R5, `92` D3): the bit of each named flag in its register. SBMSET1's bit 7 is fixed.
`ptrWidth` is how many low bits of STKPTR show the pointer (`10` R33). -/
structure BitPos where
  c : Fin 8
  dc : Fin 8
  n : Fin 8
  ov : Fin 8
  z : Fin 8
  ptrWidth : Nat
  stkfl : Fin 8
  stkov : Fin 8
  stkun : Fin 8
  skerr : Fin 8
  timeOut : Fin 8
  idleb : Fin 8
  pd : Fin 8
  gie : Fin 8
  deriving DecidableEq, Repr

/-- `Cfg.wake_events` (`60` R425): which events end one of the two halted states. -/
structure WakeSet where
  /-- An interrupt request wakes the CPU. -/
  irq : Bool
  /-- The product's other wake-up event wakes the CPU. -/
  other : Bool
  deriving DecidableEq, Repr

/-- The open parameters of `00` R5 (`92`, "Parameters a model takes, collected"). -/
structure Cfg where
  /-- `Cfg.sfr`: the data address of each named register the product has in data space. -/
  sfrs : List (DataAddr × Sfr)
  bitpos : BitPos
  /-- `Cfg.data_implemented`: the implemented general-purpose cells, as inclusive address ranges. -/
  ram : List (Nat × Nat)
  /-- `Cfg.prog_size`: the number of program words present, at most 16384. -/
  progSize : Nat
  /-- `Cfg.stack_depth`, L. -/
  stackDepth : Nat
  /-- `Cfg.int_vector`. -/
  intVector : ProgAddr
  /-- `Cfg.int_shadow_save`. -/
  intShadowSave : Bool
  /-- `Cfg.wdt_enabled`. -/
  wdtEnabled : Bool
  /-- `Cfg.wake_events` in Idle. -/
  idleWake : WakeSet
  /-- `Cfg.wake_events` in Sleeping. -/
  sleepWake : WakeSet
  /-- `Cfg.reset_flags`: true = the sticky flags keep their value across a reset, false = they become
  unspecified. -/
  resetKeepsFlags : Bool
  /-- The initial value of SBMSET1<7>. -/
  sbmset7 : Bool
  /-- `Cfg.encode`. -/
  encoding : Encoding
  deriving DecidableEq, Repr

/-- The places where a rule leaves a value open. Two open values at different sites, or at one site at
different ticks, have nothing to do with each other. -/
inductive OpenSite where
  /-- The bits of the register at a data address that no rule gives, as one read shows them (`93` U12). -/
  | busRead (a : DataAddr)
  /-- The word TBLR reads where there is none (`93` U17). -/
  | tableWord
  /-- TBLPTRH after TBLR *+ leaves 3FFFH (`93` U18). -/
  | tblptrhPastEnd
  /-- STK[L] after an overflowing push (`93` U7). -/
  | spoiledEntry
  /-- A return address past the end of program memory (notes/assumptions/16.md). -/
  | returnPastEnd
  /-- The PC when a count-and-skip both writes PCLATL and skips (notes/assumptions/18.md). -/
  | pclatlSkip
  /-- The watchdog counter after a step (`93` U2). -/
  | watchdog
  /-- A register after a chip reset within a run (`93` U5, U6). -/
  | resetOf (r : Sfr)
  /-- The n-th flag of a register after a chip reset within a run. -/
  | resetFlag (r : Sfr) (n : Nat)
  /-- W, or its shadow, after a chip reset within a run. -/
  | resetW (shadow : Bool)
  /-- The n-th flag of STASDW after a chip reset within a run. -/
  | resetStasdw (n : Nat)
  /-- BSRSDW after a chip reset within a run. -/
  | resetBsrsdw
  /-- The watchdog counter after a chip reset within a run. -/
  | resetWatchdog
  /-- The stack entry of a level after a chip reset within a run. -/
  | resetStk (level : Nat)
  deriving DecidableEq, Repr

/-- A byte no rule fixes, at a tick and a site. -/
opaque Config.openByte : Nat → OpenSite → Byte

/-- A program word no rule fixes. -/
opaque Config.openWord : Nat → OpenSite → Word

/-- A program address no rule fixes. -/
opaque Config.openAddr : Nat → OpenSite → ProgAddr

/-- A flag no rule fixes. -/
opaque Config.openBit : Nat → OpenSite → Bool

/-- A count no rule fixes. -/
opaque Config.openCount : Nat → OpenSite → Nat

end Sys2Proof
end

