-- ==== Sys2Proof/WellFormed.lean ====
section
/-! DEFINITION. Which instruction terms are instructions: the operand ranges of `30` R103 that are
narrower than the operand's field. Every other range is the field's own. -/

namespace Sys2Proof

/-- The operand ranges of `30` R103 and R107: a full data address operand is at most 04FFH. The operands
of the other forms fill their fields, so each of their terms is an instruction. -/
def Instr.wf : Instr → Bool
  | .ldpr k _ => k.toNat ≤ dataTop
  | .mvff fs fd => fs.toNat ≤ dataTop && fd.toNat ≤ dataTop
  | .addc _ _ _ | .addf _ _ _ | .andf _ _ _ | .arlc _ _ _ | .arrc _ _ _ | .comf _ _ _ => true
  | .dcf _ _ _ | .dcsuz _ _ _ | .dcsz _ _ _ | .inf _ _ _ | .insuz _ _ _ | .insz _ _ _ => true
  | .iorf _ _ _ | .mvf _ _ _ | .rlf _ _ _ | .rlfc _ _ _ | .rrf _ _ _ | .rrfc _ _ _ => true
  | .subc _ _ _ | .subf _ _ _ | .swpf _ _ _ | .xorf _ _ _ => true
  | .clrf _ _ | .cpse _ _ | .cpsg _ _ | .cpsl _ _ | .mulf _ _ | .setf _ _ => true
  | .tfsz _ _ => true
  | .bcf _ _ _ | .bsf _ _ _ | .btgf _ _ _ | .btss _ _ _ | .btsz _ _ _ => true
  | .addl _ | .andl _ | .iorl _ | .mull _ | .mvl _ | .retl _ => true
  | .subl _ | .xorl _ => true
  | .lbsr _ => true
  | .jc _ | .jn _ | .jnc _ | .jnn _ | .jno _ | .jnz _ => true
  | .jo _ | .jz _ => true
  | .rcall _ | .rj _ => true
  | .call _ _ => true
  | .jmp _ => true
  | .mvlp _ => true
  | .ret _ | .reti _ => true
  | .cwdt | .idle | .nop | .pop | .slp | .tblr => true
  | .tblrInc => true

end Sys2Proof
end

