-- ==== Sys2Proof/Decode.lean ====
section
/-! DEFINITION. Decoding and encoding. The spec gives NO binary encoding (`30` R100, `00` R4(b), `91` N1):
`Cfg.encode` is a parameter. Decoder and encoder are therefore functions of an `Encoding`, an opcode table and a
list of images, and the table at the end is the model's own numbering for its default product (notes/assumptions/2.md). -/

namespace Sys2Proof

/-- Put the bits of `v` (lowest first) at the listed places. -/
def placeBits : List Nat → Nat → Nat
  | [], _ => 0
  | p :: ps, v => v % 2 * 2 ^ p + placeBits ps (v / 2)

/-- Read the bits at the listed places (the first is the lowest bit of the answer). -/
def pickBits : List Nat → Nat → Nat
  | [], _ => 0
  | p :: ps, w => w / 2 ^ p % 2 + 2 * pickBits ps w

/-- The bits of a row's instruction with operands `v`. -/
def EncRow.image (r : EncRow) (v : Nat) : Nat := r.fixed + placeBits r.places v

/-- The first word of an instruction is of this row: putting its own operand bits back gives it again. -/
def EncRow.firstMatches (r : EncRow) (w : Word) : Bool :=
  r.image (pickBits r.places w.toNat) % 65536 == w.toNat

/-- Why words are not an instruction (`30` R107). -/
inductive DecodeError where
  /-- There is no word. -/
  | noWord
  /-- No row of the opcode table has this first word. -/
  | noRow
  /-- The second word of a two-word form is missing. -/
  | noSecondWord
  /-- The second word's fixed bits are not the row's. -/
  | secondWordMismatch
  /-- The form has one word, or the words go on after its second. -/
  | tooManyWords
  /-- An operand is outside its range (`30` R103). -/
  | operandOutOfRange
  deriving DecidableEq, Repr

/-- Read a row's operands from all the bits of an instruction. -/
def decodeBits (r : EncRow) (n : Nat) : Except DecodeError Instr :=
  if r.image (pickBits r.places n) = n then
    let i := r.op.unpack (pickBits r.places n)
    if i.wf then .ok i else .error .operandOutOfRange
  else .error .secondWordMismatch

/-- The row of the table a first word belongs to. -/
def Encoding.rowOf (enc : Encoding) (w : Word) : Option EncRow := enc.rows.find? (·.firstMatches w)

/-- The instruction whose image by the table is exactly these words. -/
def Encoding.readRows (enc : Encoding) : List Word → Except DecodeError Instr
  | [] => .error .noWord
  | [w] =>
    match enc.rowOf w with
    | none => .error .noRow
    | some r => if r.op.words = 1 then decodeBits r w.toNat else .error .noSecondWord
  | w :: w2 :: rest =>
    match enc.rowOf w with
    | none => .error .noRow
    | some r =>
      if r.op.words = 2 ∧ rest = [] then decodeBits r (w.toNat + 65536 * w2.toNat) else .error .tooManyWords

/-- The instruction has an image of its own. -/
def Encoding.isListed (enc : Encoding) (i : Instr) : Bool := enc.listed.any fun p => decide (p.1 = i)

/-- The instruction whose image is exactly these words (`30` R100: `Cfg.encode` read backwards). -/
def Encoding.decodeImage (enc : Encoding) (ws : List Word) : Except DecodeError Instr :=
  match enc.listed.find? (fun p => decide (p.2 = ws)) with
  | some p =>
    if p.1.wf = true ∧ ws.length = p.1.words then .ok p.1 else .error .operandOutOfRange
  | none =>
    match enc.readRows ws with
    | .ok i => if enc.isListed i then .error .noRow else .ok i
    | .error e => .error e

/-- Decode the first instruction of a list of program words, and the words after it: one word if that is an
image, else two. -/
def decode (enc : Encoding) : List Word → Except DecodeError (Instr × List Word)
  | [] => .error .noWord
  | w :: rest =>
    match enc.decodeImage [w] with
    | .ok i => .ok (i, rest)
    | .error e =>
      match rest with
      | [] => .error e
      | w2 :: rest2 => (enc.decodeImage [w, w2]).map (·, rest2)

/-- The row of the table for a form. -/
def Encoding.rowFor (enc : Encoding) (o : Op) : Option EncRow := enc.rows.find? (fun r => decide (r.op = o))

/-- The image of an instruction by the table. None where the table has no row. -/
def Encoding.rowImage (enc : Encoding) (i : Instr) : List Word :=
  match enc.rowFor i.op with
  | none => []
  | some r =>
    if i.words = 1 then [.ofNat 16 (r.image i.operands)]
    else [.ofNat 16 (r.image i.operands), .ofNat 16 (r.image i.operands / 65536)]

/-- The program words of an instruction: `Cfg.encode` of `30` R100. -/
def encode (enc : Encoding) (i : Instr) : List Word :=
  match enc.listed.find? (fun p => decide (p.1 = i)) with
  | some p => p.2
  | none => enc.rowImage i

/-- A row is sound: a place in the form's words for each operand bit, each place once, the fixed bits
zero there and within the words. -/
def EncRow.wf (r : EncRow) : Bool :=
  r.places.length == r.op.format.width && decide r.places.Nodup &&
  r.places.all (fun p => decide (p < 16 * r.op.words) && r.fixed / 2 ^ p % 2 == 0) &&
  decide (r.fixed < 2 ^ (16 * r.op.words))

/-- Two rows are told apart by a fixed bit of the first word. -/
def EncRow.apart (r q : EncRow) : Bool :=
  (List.range 16).any fun p =>
    !r.places.contains p && !q.places.contains p && r.fixed / 2 ^ p % 2 != q.fixed / 2 ^ p % 2

/-- A sound table: one sound row for each of the 67 forms, in the order of `30` R104, any two told apart. -/
def Encoding.rowsWf (enc : Encoding) : Bool :=
  enc.rows.map (·.op) == allOps && enc.rows.all EncRow.wf && decide (enc.rows.Pairwise fun r q => r.apart q = true)
where
  /-- The 67 forms in the order of `30` R104. -/
  allOps : List Op :=
    [ .addc, .addf, .addl, .andf, .andl, .arlc, .arrc, .clrf,
      .comf, .cpse, .cpsg, .cpsl, .dcf, .dcsuz, .dcsz, .inf,
      .insuz, .insz, .iorf, .iorl, .lbsr, .ldpr, .mulf, .mull,
      .mvf, .mvff, .mvl, .retl, .rlf, .rlfc, .rrf, .rrfc,
      .setf, .subc, .subf, .subl, .swpf, .tfsz, .xorf, .xorl,
      .call, .cwdt, .idle, .jc, .jmp, .jn, .jnc, .jnn,
      .jno, .jnz, .jo, .jz, .nop, .pop, .rcall, .ret,
      .reti, .rj, .slp, .bcf, .bsf, .btgf, .btss, .btsz,
      .mvlp, .tblr, .tblrInc ]

/-- A sound list of images: instructions, each once, with images of their length, no image twice, and none that
is the table's image of an instruction that is not listed itself. -/
def Encoding.listedWf (enc : Encoding) : Bool :=
  decide (enc.listed.map (·.1)).Nodup && decide (enc.listed.map (·.2)).Nodup &&
  enc.listed.all fun p =>
    p.1.wf && decide (p.2.length = p.1.words) &&
    match enc.readRows p.2 with
    | .ok j => enc.isListed j
    | .error _ => true

/-- The assumption the spec makes of `Cfg.encode` (`30` R100, `92` D1): the right length, and injective. -/
def Encoding.wf (enc : Encoding) : Bool := enc.rowsWf && enc.listedWf

/-- The default product's opcode table, rows 1 to 20 of `30` R104 (the model's numbering, notes/assumptions/2.md). -/
def defaultRowsA : List EncRow :=
  [ ⟨.addc, 0x6000, (List.range' 0 10)⟩,
    ⟨.addf, 0x6400, (List.range' 0 10)⟩,
    ⟨.addl, 0xC600, (List.range' 0 8)⟩,
    ⟨.andf, 0x6800, (List.range' 0 10)⟩,
    ⟨.andl, 0xC700, (List.range' 0 8)⟩,
    ⟨.arlc, 0x6C00, (List.range' 0 10)⟩,
    ⟨.arrc, 0x7000, (List.range' 0 10)⟩,
    ⟨.clrf, 0xB800, (List.range' 0 9)⟩,
    ⟨.comf, 0x7400, (List.range' 0 10)⟩,
    ⟨.cpse, 0xBA00, (List.range' 0 9)⟩,
    ⟨.cpsg, 0xBC00, (List.range' 0 9)⟩,
    ⟨.cpsl, 0xBE00, (List.range' 0 9)⟩,
    ⟨.dcf, 0x7800, (List.range' 0 10)⟩,
    ⟨.dcsuz, 0x7C00, (List.range' 0 10)⟩,
    ⟨.dcsz, 0x8000, (List.range' 0 10)⟩,
    ⟨.inf, 0x8400, (List.range' 0 10)⟩,
    ⟨.insuz, 0x8800, (List.range' 0 10)⟩,
    ⟨.insz, 0x8C00, (List.range' 0 10)⟩,
    ⟨.iorf, 0x9000, (List.range' 0 10)⟩,
    ⟨.iorl, 0xC800, (List.range' 0 8)⟩ ]

/-- The default product's opcode table, rows 21 to 40 of `30` R104 (the model's numbering, notes/assumptions/2.md). -/
def defaultRowsB : List EncRow :=
  [ ⟨.lbsr, 0xE920, (List.range' 0 3)⟩,
    ⟨.ldpr, 0xE802, (List.range' 16 12)⟩,
    ⟨.mulf, 0xC000, (List.range' 0 9)⟩,
    ⟨.mull, 0xC900, (List.range' 0 8)⟩,
    ⟨.mvf, 0x9400, (List.range' 0 10)⟩,
    ⟨.mvff, 0xE840, (List.range' 16 16 ++ List.range' 0 6)⟩,
    ⟨.mvl, 0xCA00, (List.range' 0 8)⟩,
    ⟨.retl, 0xCB00, (List.range' 0 8)⟩,
    ⟨.rlf, 0x9800, (List.range' 0 10)⟩,
    ⟨.rlfc, 0x9C00, (List.range' 0 10)⟩,
    ⟨.rrf, 0xA000, (List.range' 0 10)⟩,
    ⟨.rrfc, 0xA400, (List.range' 0 10)⟩,
    ⟨.setf, 0xC200, (List.range' 0 9)⟩,
    ⟨.subc, 0xA800, (List.range' 0 10)⟩,
    ⟨.subf, 0xAC00, (List.range' 0 10)⟩,
    ⟨.subl, 0xCC00, (List.range' 0 8)⟩,
    ⟨.swpf, 0xB000, (List.range' 0 10)⟩,
    ⟨.tfsz, 0xC400, (List.range' 0 9)⟩,
    ⟨.xorf, 0xB400, (List.range' 0 10)⟩,
    ⟨.xorl, 0xCD00, (List.range' 0 8)⟩ ]

/-- The default product's opcode table, rows 41 to 59 of `30` R104 (the model's numbering, notes/assumptions/2.md). -/
def defaultRowsC : List EncRow :=
  [ ⟨.call, 0xE800, (List.range' 16 15)⟩,
    ⟨.cwdt, 0xE900, []⟩,
    ⟨.idle, 0xE901, []⟩,
    ⟨.jc, 0xCE00, (List.range' 0 8)⟩,
    ⟨.jmp, 0xE801, (List.range' 16 14)⟩,
    ⟨.jn, 0xCF00, (List.range' 0 8)⟩,
    ⟨.jnc, 0xD000, (List.range' 0 8)⟩,
    ⟨.jnn, 0xD100, (List.range' 0 8)⟩,
    ⟨.jno, 0xD200, (List.range' 0 8)⟩,
    ⟨.jnz, 0xD300, (List.range' 0 8)⟩,
    ⟨.jo, 0xD400, (List.range' 0 8)⟩,
    ⟨.jz, 0xD500, (List.range' 0 8)⟩,
    ⟨.nop, 0xE902, []⟩,
    ⟨.pop, 0xE903, []⟩,
    ⟨.rcall, 0xD800, (List.range' 0 11)⟩,
    ⟨.ret, 0xE910, (List.range' 0 1)⟩,
    ⟨.reti, 0xE912, (List.range' 0 1)⟩,
    ⟨.rj, 0xE000, (List.range' 0 11)⟩,
    ⟨.slp, 0xE904, []⟩ ]

/-- The default product's opcode table, rows 60 to 67 of `30` R104 (the model's numbering, notes/assumptions/2.md). -/
def defaultRowsD : List EncRow :=
  [ ⟨.bcf, 0x1000, (List.range' 0 12)⟩,
    ⟨.bsf, 0x2000, (List.range' 0 12)⟩,
    ⟨.btgf, 0x3000, (List.range' 0 12)⟩,
    ⟨.btss, 0x4000, (List.range' 0 12)⟩,
    ⟨.btsz, 0x5000, (List.range' 0 12)⟩,
    ⟨.mvlp, 0xE803, (List.range' 16 14)⟩,
    ⟨.tblr, 0xE905, []⟩,
    ⟨.tblrInc, 0xE906, []⟩ ]

/-- The default product's opcode table. DESIGN CHOICE: no opcode value is in the spec (`91` N1). -/
def defaultEncoding : Encoding where
  rows := defaultRowsA ++ defaultRowsB ++ defaultRowsC ++ defaultRowsD
  listed := []

/-- The instruction the decoder reads, under the default product's table, from an instruction whose bits
are `w`: bits 15..0 the first word, bits 31..16 the second, bits from `nbits` up zero. -/
def decodeTableWord (nbits w : Nat) : Option Instr :=
  let n := w % 2 ^ nbits
  match decode defaultEncoding [.ofNat 16 n, .ofNat 16 (n / 65536)] with
  | .ok (i, _) => some i
  | .error _ => none

end Sys2Proof
end

