-- ==== Sys2Proof/Machine/Product.lean ====
section
/-! DEFINITION. When a product record `Cfg` is sound, and the record the model's reset state carries.
The spec leaves every field open (`00` R5): the default product is a DESIGN CHOICE
(notes/assumptions/1.md), chosen so that the premises of `spec/95_test_vectors.md` hold of it. -/

namespace Sys2Proof.Machine

/-- The data address of WREG, the only register address the spec gives (`10` R43). -/
abbrev wregAddr : DataAddr := 0x02C

/-- The registers a product must place in data space (`10` R43); SBMSET1 and the GIE register exist there
only if the product says so (`10` R35, `60` R411). -/
def requiredSfrs : List Sfr :=
  [ .status, .bsrcn, .fsr0h, .fsr0l, .fsr1h, .fsr1l, .indf0, .indf1, .prodh, .prodl, .tblptrh, .tblptrl,
    .tbldh, .tbldl, .tosh, .tosl, .stkptr, .pstatus, .pclatl ]

/-- The named bits of one register do not overlap (`92` D3), and STKPTR's pointer field lies below its
flags and can show every value from 0 to L (`10` R33). -/
def bitPosWf (b : BitPos) (depth : Nat) : Bool :=
  decide [b.c, b.dc, b.n, b.ov, b.z].Nodup && decide [b.stkfl, b.stkov, b.stkun].Nodup &&
  decide [b.skerr, b.timeOut, b.idleb, b.pd].Nodup && decide (depth < 2 ^ b.ptrWidth) &&
  [b.stkfl, b.stkov, b.stkun].all (fun p => decide (b.ptrWidth ≤ p.val))

/-- A sound product record: the register addresses pairwise distinct and none at 02CH (`10` R43), each
register at one address, L at least 1 and the program size at most 16384 (`00` R5), a sound opcode table. -/
def cfgWf (c : Cfg) : Bool :=
  decide ((c.sfrs.map (·.1)).Nodup) && decide ((c.sfrs.map (·.2)).Nodup) &&
  decide (wregAddr ∉ c.sfrs.map (·.1)) && requiredSfrs.all (fun r => (c.sfrs.map (·.2)).contains r) &&
  bitPosWf c.bitpos c.stackDepth && decide (1 ≤ c.stackDepth) && decide (c.progSize ≤ progSpace) &&
  c.encoding.wf

/-- The default product's flag positions. DESIGN CHOICE (notes/assumptions/1.md). -/
def defaultBitPos : BitPos where
  c := 0
  dc := 1
  n := 2
  ov := 3
  z := 4
  ptrWidth := 3
  stkfl := 7
  stkov := 6
  stkun := 5
  skerr := 3
  timeOut := 2
  idleb := 1
  pd := 0
  gie := 7

/-- The default product's register addresses. DESIGN CHOICE (notes/assumptions/1.md). -/
def defaultSfrs : List (DataAddr × Sfr) :=
  [ (0x001, .indf0), (0x002, .indf1), (0x003, .fsr0h), (0x004, .fsr0l), (0x005, .fsr1h), (0x006, .fsr1l),
    (0x007, .bsrcn), (0x008, .status), (0x009, .prodh), (0x00A, .prodl), (0x00B, .tblptrh),
    (0x00C, .tblptrl), (0x00D, .tbldh), (0x00E, .tbldl), (0x00F, .tosh), (0x010, .tosl), (0x011, .stkptr),
    (0x012, .pstatus), (0x013, .pclatl), (0x014, .sbmset1), (0x015, .gieReg) ]

/-- The product the reset state carries. DESIGN CHOICE (notes/assumptions/1.md): no field is in the spec;
interrupts' shadow save, the watchdog and the wake-up events are off, the defaults of `00` R5. -/
def defaultCfg : Cfg where
  sfrs := defaultSfrs
  bitpos := defaultBitPos
  ram := [(0, dataTop)]
  progSize := progSpace
  stackDepth := 4
  intVector := 0x0010
  intShadowSave := false
  wdtEnabled := false
  idleWake := { irq := false, other := false }
  sleepWake := { irq := false, other := false }
  resetKeepsFlags := false
  sbmset7 := false
  encoding := defaultEncoding

end Sys2Proof.Machine
end

