-- ==== Sys2Proof/Machine/State.lean ====
section
/-! DEFINITION. The machine's state as plain data, its stops, and the state after reset. -/

namespace Sys2Proof.Machine

/-- The five flags of STATUS (`10` R23). -/
structure Flags where
  c : Bool
  dc : Bool
  n : Bool
  ov : Bool
  z : Bool
  deriving DecidableEq, Repr

/-- A register whose upper bits no rule gives after a data-space write (`93` U12): FSRxH and TBLPTRH. -/
structure UpperReg where
  /-- The byte the register was last given. -/
  byte : Byte
  /-- The last write came through data space, so a read shows open upper bits (notes/assumptions/11.md). -/
  hiOpen : Bool
  deriving DecidableEq, Repr

/-- The run state of the CPU (`10` R40). -/
inductive RunState where
  | running
  | idle
  | sleeping
  deriving DecidableEq, Repr

/-- What a program-memory word is (`30` R100). The image names the instruction a first word belongs to, hence its
length (`30` R101); the mark keeps that much of it (notes/assumptions/3.md). -/
inductive WordKind where
  /-- The word of a one-word instruction. -/
  | first
  /-- The first word of a two-word instruction. -/
  | firstOfTwo
  /-- The second word of the instruction at the address below. -/
  | second
  /-- A data word, which only TBLR reads. -/
  | data
  deriving DecidableEq, Repr

/-- A word of the program image. -/
structure ProgCell where
  kind : WordKind
  word : Word
  deriving DecidableEq, Repr

/-- What the environment supplies at one instruction boundary (`60` R408, R411, R420, R425). -/
structure EnvInput where
  /-- A reset from outside the core. -/
  reset : Bool
  /-- A watchdog time-out (admitted only if `Cfg.wdt_enabled`). -/
  wdt : Bool
  /-- An interrupt request is pending (`Cfg.irq`). -/
  irq : Bool
  /-- The product's other wake-up event. -/
  wake : Bool
  deriving DecidableEq, Repr

/-- Data memory: address and byte, the addresses strictly rising (`10` R41). An address not listed holds
no value (`10` R46). -/
abbrev Memory := List Host.Cell

/-- Program memory: word address and word, the addresses strictly rising (`10` R42). -/
abbrev ProgMemory := List (Nat × ProgCell)

/-- Why an address holds no instruction to fetch. -/
inductive FetchError where
  /-- At or above `Cfg.prog_size` (`92` D15). -/
  | beyondProgram
  /-- The image has no word there (`92` D21). -/
  | nothingThere
  /-- The image has a data word there (`30` R100). -/
  | dataWord
  /-- The image has the second word of a two-word instruction there (`92` D26). -/
  | secondWord
  /-- The second word of the instruction is not in the image. -/
  | secondWordMissing
  /-- The words are no instruction under the product's opcode table (`30` R107). -/
  | badWords (why : DecodeError)
  deriving DecidableEq, Repr

/-- Faults: the model stops where the spec gives no successor state (`60` R407: not hardware events). -/
inductive Fault where
  /-- Raised by a read of a data cell nothing has written (`10` R46). Safe: the hardware goes on with some
  value. -/
  | unwrittenCell (a : DataAddr)
  /-- Raised by an access above 04FFH or at a cell the product does not have (`20` R78, R79 case 7; `92` D14).
  Safe. -/
  | unimplementedAddress (a : DataAddr)
  /-- Raised by an access through INDFx when FSRx holds the address of INDF0 or INDF1 (`20` R77; `92` D11).
  Safe. -/
  | indfSelfReference (a : DataAddr)
  /-- Raised by RET, RETI, RETL with SP = 0 and SBMSET1<7> = 0 (`60` R402; `90` C30). Safe. -/
  | stackUnderflow
  /-- Raised by a step after a watchdog time-out: no further step is defined (`60` R420). Safe. -/
  | watchdogTimeOut
  deriving DecidableEq, Repr

/-- Refusals: the spec gives the case no meaning. -/
inductive Refusal where
  /-- An instruction without a meaning in this model: raised by `exec` alone. Safe. -/
  | notModelled (mnemonic : String)
  /-- Raised by a step when no instruction starts at PC (`10` R22; `30` R107, R108; `70` R453). Safe. -/
  | noInstruction (why : FetchError)
  /-- Raised by a step when the PC was incremented past 3FFFH (`93` U16). Safe. -/
  | pcPastEnd
  /-- Raised by a skip whose next instruction is absent or whose target is outside the program (`42` R259).
  Safe. -/
  | skipOutsideProgram
  /-- Raised by a flag-writing instruction whose destination is STATUS (`20` R79 case 5; `92` D12). Safe. -/
  | statusCollision
  /-- Raised by a write to STKPTR, Pstatus, TOSH, TOSL, SBMSET1 or the GIE register other than the flag
  clears of `92` D12 (`20` R79 case 6; `60` R401). Safe. -/
  | systemRegisterWrite (r : Sfr)
  /-- Raised by a write of PCLATL that is not the second half of a read-modify-write (`20` R79 case 4;
  `92` D13). Safe. -/
  | pclatlPureWrite
  deriving DecidableEq, Repr

/-- The machine (`10` R20 to R44). -/
structure State where
  /-- The accumulator (`10` R20), also data address 02CH. -/
  w : Byte
  /-- The program counter (`10` R21). -/
  pc : ProgAddr
  /-- The model's own: the PC was incremented past 3FFFH (notes/assumptions/15.md). -/
  pcPast : Bool
  /-- STATUS (`10` R23). -/
  status : Flags
  /-- BSRCN bits 2:0 (`10` R25). -/
  bsrcn : BitVec 3
  /-- FSR0H (`10` R26). -/
  fsr0h : UpperReg
  /-- FSR0L (`10` R26). -/
  fsr0l : Byte
  /-- FSR1H (`10` R26). -/
  fsr1h : UpperReg
  /-- FSR1L (`10` R26). -/
  fsr1l : Byte
  /-- PRODH (`10` R28). -/
  prodh : Byte
  /-- PRODL (`10` R28). -/
  prodl : Byte
  /-- TBLPTRH (`10` R29). -/
  tblptrh : UpperReg
  /-- TBLPTRL (`10` R29). -/
  tblptrl : Byte
  /-- TBLDH (`10` R30). -/
  tbldh : Byte
  /-- TBLDL (`10` R30). -/
  tbldl : Byte
  /-- STK[1..L], level 1 first (`10` R31). -/
  stk : List ProgAddr
  /-- SP, the pointer field of STKPTR (`10` R31, R33). -/
  sp : Nat
  /-- STKPTR<STKFL> (`10` R33). -/
  stkfl : Bool
  /-- STKPTR<STKOV> (`10` R33). -/
  stkov : Bool
  /-- STKPTR<STKUN> (`10` R33). -/
  stkun : Bool
  /-- Pstatus<SKERR> (`10` R34). -/
  skerr : Bool
  /-- Pstatus<TO> (`10` R34). -/
  timeOut : Bool
  /-- Pstatus<IdleB> (`10` R34). -/
  idleb : Bool
  /-- Pstatus<PD> (`10` R34). -/
  pd : Bool
  /-- SBMSET1<7> (`10` R35). -/
  sbmset7 : Bool
  /-- WREGSDW (`10` R37). -/
  wregsdw : Byte
  /-- STASDW (`10` R37). -/
  stasdw : Flags
  /-- BSRSDW (`10` R37). -/
  bsrsdw : BitVec 3
  /-- GIE (`10` R38). -/
  gie : Bool
  /-- The watchdog counter (`10` R39): its width is not in the spec. -/
  wdt : Nat
  /-- The model's own: a watchdog time-out was taken (notes/assumptions/29.md). -/
  wdtStuck : Bool
  /-- The run state (`10` R40). -/
  run : RunState
  /-- Data memory DM (`10` R41). -/
  mem : Memory
  /-- Program memory PM (`10` R42). -/
  prog : ProgMemory
  /-- The model's own: the environment's schedule, the next boundary first (notes/assumptions/28.md). -/
  inputs : List EnvInput
  /-- The model's own: the counter the open values are applied to (notes/assumptions/9.md). -/
  tick : Nat
  /-- The model's own: the product record (`00` R5; notes/assumptions/1.md). -/
  cfg : Cfg
  deriving DecidableEq, Repr

/-- All flags clear. -/
def Flags.zero : Flags := { c := false, dc := false, n := false, ov := false, z := false }

/-- A product's machine right after power-on. The spec gives PC = 000H (`10` R46, `70` R450) and decides
run = Running, SP = 0, GIE = 0 and SBMSET1<7> from the product (`10` R46); data memory holds nothing. The
registers the spec leaves unspecified are zero here: DESIGN CHOICE, unsafe (notes/assumptions/5.md). -/
def State.resetWith (c : Cfg) : State where
  w := 0
  pc := 0
  pcPast := false
  status := .zero
  bsrcn := 0
  fsr0h := { byte := 0, hiOpen := false }
  fsr0l := 0
  fsr1h := { byte := 0, hiOpen := false }
  fsr1l := 0
  prodh := 0
  prodl := 0
  tblptrh := { byte := 0, hiOpen := false }
  tblptrl := 0
  tbldh := 0
  tbldl := 0
  stk := List.replicate c.stackDepth 0
  sp := 0
  stkfl := false
  stkov := false
  stkun := false
  skerr := false
  timeOut := false
  idleb := false
  pd := false
  sbmset7 := c.sbmset7
  wregsdw := 0
  stasdw := .zero
  bsrsdw := 0
  gie := false
  wdt := 0
  wdtStuck := false
  run := .running
  mem := []
  prog := []
  inputs := []
  tick := 0
  cfg := c

/-- The machine right after reset (`10` R46), of the default product, no program loaded
(notes/assumptions/4.md). -/
def State.reset : State := State.resetWith defaultCfg

/-- What a step or a meaning answers. -/
abbrev Out := Host.Outcome State Fault Refusal

end Sys2Proof.Machine
end

