-- ==== Sys2Proof/Machine/Flags.lean ====
section
/-! DEFINITION. The flag computations: `add8`, `sub8`, `setNZ` of `10` R47 to R49, and the results of the
rotates. -/

namespace Sys2Proof.Machine

/-- A result byte and the flags of STATUS that go with it. -/
structure AluResult where
  r : Byte
  flags : Flags
  deriving DecidableEq, Repr

/-- `add8` of `10` R47: the exact sum, brought to 8 bits. -/
def add8 (x y : Byte) (cin : Bool) : AluResult :=
  let s := x.toNat + y.toNat + cin.toNat
  let r : Byte := .ofNat 8 s
  { r,
    flags :=
      { c := decide (256 ≤ s)
        dc := decide (16 ≤ x.toNat % 16 + y.toNat % 16 + cin.toNat)
        n := r.msb
        ov := x.msb == y.msb && r.msb != x.msb
        z := r == 0 } }

/-- `sub8` of `10` R48: x - y - bin; C and DC are 1 when no borrow occurred. -/
def sub8 (x y : Byte) (bin : Bool) : AluResult :=
  let d : Int := x.toNat - y.toNat - bin.toNat
  let r : Byte := .ofInt 8 d
  { r,
    flags :=
      { c := decide (0 ≤ d)
        dc := decide ((0 : Int) ≤ (x.toNat % 16 : Nat) - (y.toNat % 16 : Nat) - bin.toNat)
        n := r.msb
        ov := x.msb != y.msb && r.msb != x.msb
        z := r == 0 } }

/-- `setNZ` of `10` R49: N and Z from the result, C, DC, OV unchanged. -/
def setNZ (fl : Flags) (r : Byte) : Flags := { fl with n := r.msb, z := r == 0 }

/-- A result that writes N and Z only (`10` R24). -/
def resultNZ (fl : Flags) (r : Byte) : AluResult := { r, flags := setNZ fl r }

/-- A result that writes C, N and Z (`10` R24). -/
def resultCNZ (fl : Flags) (c : Bool) (r : Byte) : AluResult := { r, flags := { setNZ fl r with c } }

/-- Rotate left, `b` entering at bit 0: x[6:0] ∥ b (`40` R203, R210, R211). -/
def shiftInLow (x : Byte) (b : Bool) : Byte := x.setWidth 7 ++ BitVec.ofBool b

/-- Rotate right, `b` entering at bit 7: b ∥ x[7:1] (`40` R204, R212, R213). -/
def shiftInHigh (b : Bool) (x : Byte) : Byte := BitVec.ofBool b ++ x.extractLsb' 1 7

/-- ARLC (`40` R203): left through C; OV tells whether bit 7 changed (notes/assumptions/26.md). -/
def arlcResult (fl : Flags) (x : Byte) : AluResult :=
  let r := shiftInLow x fl.c
  { r, flags := { setNZ fl r with c := x.msb, ov := x.msb != r.msb } }

/-- ARRC (`40` R204): bit 7 kept, bit 0 to C. -/
def arrcResult (fl : Flags) (x : Byte) : AluResult := resultCNZ fl (x.getLsbD 0) (shiftInHigh x.msb x)

/-- RLF (`40` R210): left, bit 7 to bit 0. -/
def rlfResult (fl : Flags) (x : Byte) : AluResult := resultNZ fl (shiftInLow x x.msb)

/-- RLFC (`40` R211): left through C. -/
def rlfcResult (fl : Flags) (x : Byte) : AluResult := resultCNZ fl x.msb (shiftInLow x fl.c)

/-- RRF (`40` R212): right, bit 0 to bit 7. -/
def rrfResult (fl : Flags) (x : Byte) : AluResult := resultNZ fl (shiftInHigh (x.getLsbD 0) x)

/-- RRFC (`40` R213): right through C. -/
def rrfcResult (fl : Flags) (x : Byte) : AluResult := resultCNZ fl (x.getLsbD 0) (shiftInHigh fl.c x)

/-- The two nibbles exchanged (`40` R217). -/
def swapNibbles (x : Byte) : Byte := x.setWidth 4 ++ x.extractLsb' 4 4

/-- The unsigned 8 × 8 product (`41` R236, R237). -/
def product (x y : Byte) : BitVec 16 := .ofNat 16 (x.toNat * y.toNat)

end Sys2Proof.Machine
end

