-- ==== Sys2Proof/Machine/Ops.lean ====
section
/-! DEFINITION. The shared operations: bits of a byte, the two memories, the PC, the named registers as
data-space bytes, `MemRead` and `MemWrite` (`20` R77 to R79), the return stack (`60` R400, R402) and the one
exception, the chip reset (`60` R406, `70` R450). -/

namespace Sys2Proof.Machine

/-! ## Bits of a byte -/

/-- `v` with bit `p` set to `b`, the other bits as they are. -/
def putBit (v : Byte) (p : Nat) (b : Bool) : Byte :=
  if b then v ||| BitVec.twoPow 8 p else v &&& ~~~BitVec.twoPow 8 p

/-- `v` with the listed bits set. -/
def putBits (v : Byte) (l : List (Fin 8 × Bool)) : Byte := l.foldl (fun u q => putBit u q.1.val q.2) v

/-- The lowest `keep` bits of `v` under the other bits of `u`. -/
def lowUnder (keep : Nat) (u v : Byte) : Byte := .ofNat 8 (v.toNat % 2 ^ keep + u.toNat / 2 ^ keep * 2 ^ keep)

/-! ## The two memories: lists of cells, addresses strictly rising -/

/-- The content of an address, if it is listed. -/
def cellRead {β : Type} : List (Nat × β) → Nat → Option β
  | [], _ => none
  | (b, u) :: rest, a => if a = b then some u else cellRead rest a

/-- Write an address, keeping the addresses strictly rising. -/
def cellWrite {β : Type} : List (Nat × β) → Nat → β → List (Nat × β)
  | [], a, v => [(a, v)]
  | (b, u) :: rest, a, v =>
    if a < b then (a, v) :: (b, u) :: rest
    else if a = b then (a, v) :: rest
    else (b, u) :: cellWrite rest a v

/-- The canonical form: addresses strictly rising, so equal memories are equal lists. An address not listed
holds no value, so no listed entry equals what an unlisted address reads as. -/
def cellsWf {β : Type} (l : List (Nat × β)) : Bool := decide (l.Pairwise fun p q => p.1 < q.1)

/-- The canonical form of data memory. -/
def Memory.wf (m : Memory) : Bool := cellsWf m

/-- The canonical form of program memory, every address a program address. -/
def ProgMemory.wf (m : ProgMemory) : Bool := cellsWf m && m.all (fun p => decide (p.1 < progSpace))

/-! ## The program counter -/

/-- Move the PC past an instruction of `n` words: afterwards `pc` is `next` (`10` R22), and `pcPast` tells
that it ran past 3FFFH (notes/assumptions/15.md). A meaning does this first, so that everything it then
does to the PC is relative to `next`. -/
def advance (s : State) (n : Nat) : State :=
  { s with pc := s.pc + .ofNat 14 n, pcPast := decide (progSpace ≤ s.pc.toNat + n) }

/-- `pc <- target`. -/
def setPc (s : State) (t : ProgAddr) : State := { s with pc := t, pcPast := false }

/-- `next`, as a return address: open when there is no address after the instruction
(notes/assumptions/16.md). -/
def returnAddr (s : State) : ProgAddr :=
  if s.pcPast then Config.openAddr s.tick .returnPastEnd else s.pc

/-- The target of a relative jump, from `next`: `next + n` modulo 2^14 (`30` R106; `92` D7). -/
def relTarget (s : State) {k : Nat} (n : BitVec k) : ProgAddr := s.pc + n.signExtend 14

/-! ## The chip reset -/

/-- A sticky flag after a reset: kept or unspecified, as the product says (`10` R46, `Cfg.reset_flags`). -/
def stickyAfterReset (s : State) (old : Bool) (r : Sfr) (k : Nat) : Bool :=
  if s.cfg.resetKeepsFlags then old else Config.openBit s.tick (.resetFlag r k)

/-- Flags no rule fixes. -/
def openFlags (tick : Nat) (site : Nat → OpenSite) : Flags :=
  { c := Config.openBit tick (site 0)
    dc := Config.openBit tick (site 1)
    n := Config.openBit tick (site 2)
    ov := Config.openBit tick (site 3)
    z := Config.openBit tick (site 4) }

/-- `raise Reset`, and a reset from outside (`60` R406; `70` R450; `10` R46): PC = 000H, Running, SP = 0,
GIE = 0, SBMSET1<7> from the product, the sticky flags as the product says, program memory unchanged, data
memory without values, and every other register open (notes/assumptions/7.md). -/
def chipReset (s : State) : State where
  w := Config.openByte s.tick (.resetW false)
  pc := 0
  pcPast := false
  status := openFlags s.tick (.resetFlag .status)
  bsrcn := (Config.openByte s.tick (.resetOf .bsrcn)).setWidth 3
  fsr0h := { byte := Config.openByte s.tick (.resetOf .fsr0h), hiOpen := true }
  fsr0l := Config.openByte s.tick (.resetOf .fsr0l)
  fsr1h := { byte := Config.openByte s.tick (.resetOf .fsr1h), hiOpen := true }
  fsr1l := Config.openByte s.tick (.resetOf .fsr1l)
  prodh := Config.openByte s.tick (.resetOf .prodh)
  prodl := Config.openByte s.tick (.resetOf .prodl)
  tblptrh := { byte := Config.openByte s.tick (.resetOf .tblptrh), hiOpen := true }
  tblptrl := Config.openByte s.tick (.resetOf .tblptrl)
  tbldh := Config.openByte s.tick (.resetOf .tbldh)
  tbldl := Config.openByte s.tick (.resetOf .tbldl)
  stk := (List.range s.cfg.stackDepth).map fun k => Config.openAddr s.tick (.resetStk k)
  sp := 0
  stkfl := stickyAfterReset s s.stkfl .stkptr 0
  stkov := stickyAfterReset s s.stkov .stkptr 1
  stkun := stickyAfterReset s s.stkun .stkptr 2
  skerr := stickyAfterReset s s.skerr .pstatus 0
  timeOut := stickyAfterReset s s.timeOut .pstatus 1
  idleb := stickyAfterReset s s.idleb .pstatus 2
  pd := stickyAfterReset s s.pd .pstatus 3
  sbmset7 := s.cfg.sbmset7
  wregsdw := Config.openByte s.tick (.resetW true)
  stasdw := openFlags s.tick .resetStasdw
  bsrsdw := (Config.openByte s.tick .resetBsrsdw).setWidth 3
  gie := false
  wdt := Config.openCount s.tick .resetWatchdog
  wdtStuck := false
  run := .running
  mem := []
  prog := s.prog
  inputs := s.inputs
  tick := s.tick
  cfg := s.cfg

/-! ## The return stack -/

/-- TOS (`10` R32): the entry SP points to, 0 when the stack is empty. -/
def tos (s : State) : ProgAddr := if s.sp = 0 then 0 else s.stk.getD (s.sp - 1) 0

/-- `Push(v)` and then the rest `k` of the calling instruction (`60` R400). On a full stack STKOV and SKERR
are set; with SBMSET1<7> = 1 the chip resets and `k` is not done; with 0 `k` is done and the top entry is
open (notes/assumptions/13.md). -/
def pushThen (s : State) (v : ProgAddr) (k : State → State) : State :=
  if s.sp < s.cfg.stackDepth then
    k { s with
        sp := s.sp + 1
        stk := s.stk.set s.sp v
        stkfl := s.stkfl || decide (s.sp + 1 = s.cfg.stackDepth) }
  else
    let t := { s with stkov := true, skerr := true }
    if s.sbmset7 then chipReset t
    else k { t with stk := s.stk.set (s.cfg.stackDepth - 1) (Config.openAddr s.tick .spoiledEntry) }

/-- `PopToPC()` and then the rest `k` of the returning instruction (`60` R402; `90` C30). On an empty stack
STKUN and SKERR are set and, with SBMSET1<7> = 1, the chip resets; with 0 the model faults
(notes/assumptions/14.md). -/
def popThen (s : State) (k : State → State) : Out :=
  if s.sp = 0 then
    if s.sbmset7 then .next (chipReset { s with stkun := true, skerr := true })
    else .fault .stackUnderflow
  else .next (k (setPc { s with sp := s.sp - 1 } (tos s)))

/-- The shadow registers take W, STATUS and BSRCN (`10` R37). -/
def saveShadows (s : State) : State :=
  { s with wregsdw := s.w, stasdw := s.status, bsrsdw := s.bsrcn }

/-- W, STATUS and BSRCN from the shadow registers (`10` R37). -/
def restoreShadows (s : State) : State :=
  { s with w := s.wregsdw, status := s.stasdw, bsrcn := s.bsrsdw }

/-! ## Named registers as data-space bytes -/

/-- What stands at a data address. -/
inductive Target where
  /-- W (`10` R20). -/
  | wreg
  /-- A named register of the product (`10` R43). -/
  | reg (r : Sfr)
  /-- An implemented general-purpose cell. -/
  | ram
  /-- Nothing: above 04FFH, or not implemented (`92` D14). -/
  | absent
  deriving DecidableEq, Repr

/-- `Cfg.data_implemented` (`00` R5), up to 04FFH. -/
def implemented (c : Cfg) (a : DataAddr) : Bool :=
  decide (a.toNat ≤ dataTop) && c.ram.any fun r => decide (r.1 ≤ a.toNat ∧ a.toNat ≤ r.2)

/-- What stands at a data address: W at 02CH, then the product's registers, then plain cells (`20` R78). -/
def targetOf (c : Cfg) (a : DataAddr) : Target :=
  if a = wregAddr then .wreg
  else
    match c.sfrs.lookup a with
    | some r => .reg r
    | none => if implemented c a then .ram else .absent

/-- The data address FSR0 points to (`10` R26: bits 2:0 of the high half over the low half). -/
def fsr0Ptr (s : State) : DataAddr := s.fsr0h.byte.setWidth 3 ++ s.fsr0l

/-- The data address FSR1 points to. -/
def fsr1Ptr (s : State) : DataAddr := s.fsr1h.byte.setWidth 3 ++ s.fsr1l

/-- The target of an indirect access: a pointer to INDF0 or INDF1 has none (`92` D11). -/
def followPtr (s : State) (p : DataAddr) : Except Fault DataAddr :=
  match targetOf s.cfg p with
  | .reg .indf0 | .reg .indf1 => .error (.indfSelfReference p)
  | _ => .ok p

/-- The address an access is performed on: INDFx stands for what FSRx points to (`20` R77). -/
def resolve (s : State) (a : DataAddr) : Except Fault DataAddr :=
  match targetOf s.cfg a with
  | .reg .indf0 => followPtr s (fsr0Ptr s)
  | .reg .indf1 => followPtr s (fsr1Ptr s)
  | _ => .ok a

/-- A register with open upper bits, as one read shows it (`93` U12). -/
def UpperReg.show (u : UpperReg) (keep : Nat) (bus : Byte) : Byte :=
  if u.hiOpen then lowUnder keep bus u.byte else u.byte

/-- The byte a named register shows at data address `a` (`20` R78 cases 3 to 6). `s` is the state with the
PC at `next`, so PCLATL shows `next[7:0]`. Bits no rule names are open, fresh at each address and tick. INDFx
is no register of its own: `resolve` never leaves an access there. -/
def readSfr (s : State) (a : DataAddr) (r : Sfr) : Byte :=
  let bus := Config.openByte s.tick (.busRead a)
  let bp := s.cfg.bitpos
  match r with
  | .status => putBits bus [(bp.c, s.status.c), (bp.dc, s.status.dc), (bp.n, s.status.n), (bp.ov, s.status.ov), (bp.z, s.status.z)]
  | .bsrcn => lowUnder 3 bus (s.bsrcn.setWidth 8)
  | .fsr0h => s.fsr0h.show 3 bus
  | .fsr0l => s.fsr0l
  | .fsr1h => s.fsr1h.show 3 bus
  | .fsr1l => s.fsr1l
  | .indf0 => bus
  | .indf1 => bus
  | .prodh => s.prodh
  | .prodl => s.prodl
  | .tblptrh => s.tblptrh.show 6 bus
  | .tblptrl => s.tblptrl
  | .tbldh => s.tbldh
  | .tbldl => s.tbldl
  | .tosh => ((tos s).extractLsb' 8 6).setWidth 8
  | .tosl => (tos s).setWidth 8
  | .stkptr => putBits (lowUnder bp.ptrWidth bus (.ofNat 8 s.sp)) [(bp.stkfl, s.stkfl), (bp.stkov, s.stkov), (bp.stkun, s.stkun)]
  | .pstatus => putBits bus [(bp.skerr, s.skerr), (bp.timeOut, s.timeOut), (bp.idleb, s.idleb), (bp.pd, s.pd)]
  | .pclatl => s.pc.setWidth 8
  | .sbmset1 => putBits bus [(7, s.sbmset7)]
  | .gieReg => putBits bus [(bp.gie, s.gie)]

/-- How an instruction writes a data byte: what `20` R79 and `92` D12, D13 distinguish. -/
inductive WriteKind where
  /-- A pure write: MVF with d = 1, MVFF, CLRF, SETF. -/
  | pure
  /-- The second half of a read-modify-write by an instruction that writes no flag. -/
  | modify
  /-- The second half of a read-modify-write by an instruction that writes flags of STATUS. -/
  | modifyFlags
  /-- BCF of a bit. -/
  | bitClear (b : Nat)
  /-- BSF of a bit. -/
  | bitSet (b : Nat)
  deriving DecidableEq, Repr

/-- STATUS from a byte: each flag its bit at `Cfg.bitpos` (`20` R79 case 5). -/
def flagsOfByte (bp : BitPos) (v : Byte) : Flags :=
  { c := v.getLsbD bp.c
    dc := v.getLsbD bp.dc
    n := v.getLsbD bp.n
    ov := v.getLsbD bp.ov
    z := v.getLsbD bp.z }

/-- BCF of a bit of STKPTR (`60` R401): clearing STKFL or STKOV clears both; STKUN alone. -/
def clearStkptrBit (s : State) (b : Nat) : Out :=
  let bp := s.cfg.bitpos
  if b = bp.stkfl ∨ b = bp.stkov then .next { s with stkfl := false, stkov := false }
  else if b = bp.stkun then .next { s with stkun := false }
  else .refused (.systemRegisterWrite .stkptr)

/-- BCF of a bit of Pstatus (`60` R401; `92` D12). -/
def clearPstatusBit (s : State) (b : Nat) : Out :=
  let bp := s.cfg.bitpos
  if b = bp.skerr then .next { s with skerr := false }
  else if b = bp.timeOut then .next { s with timeOut := false }
  else if b = bp.idleb then .next { s with idleb := false }
  else if b = bp.pd then .next { s with pd := false }
  else .refused (.systemRegisterWrite .pstatus)

/-- A write of a named register as a byte (`20` R79 cases 3 to 6; `92` D12, D13). `s` is the state with the
PC at `next`. -/
def writeSfr (k : WriteKind) (s : State) (v : Byte) : Sfr → Out
  | .status =>
    match k with
    | .modifyFlags => .refused .statusCollision
    | .pure | .modify | .bitClear _ | .bitSet _ => .next { s with status := flagsOfByte s.cfg.bitpos v }
  | .bsrcn => .next { s with bsrcn := v.setWidth 3 }
  | .fsr0h => .next { s with fsr0h := { byte := v, hiOpen := true } }
  | .fsr0l => .next { s with fsr0l := v }
  | .fsr1h => .next { s with fsr1h := { byte := v, hiOpen := true } }
  | .fsr1l => .next { s with fsr1l := v }
  | .indf0 => .fault (.indfSelfReference (fsr0Ptr s))
  | .indf1 => .fault (.indfSelfReference (fsr1Ptr s))
  | .prodh => .next { s with prodh := v }
  | .prodl => .next { s with prodl := v }
  | .tblptrh => .next { s with tblptrh := { byte := v, hiOpen := true } }
  | .tblptrl => .next { s with tblptrl := v }
  | .tbldh => .next { s with tbldh := v }
  | .tbldl => .next { s with tbldl := v }
  | .tosh => .refused (.systemRegisterWrite .tosh)
  | .tosl => .refused (.systemRegisterWrite .tosl)
  | .stkptr =>
    match k with
    | .bitClear b => clearStkptrBit s b
    | .pure | .modify | .modifyFlags | .bitSet _ => .refused (.systemRegisterWrite .stkptr)
  | .pstatus =>
    match k with
    | .bitClear b => clearPstatusBit s b
    | .pure | .modify | .modifyFlags | .bitSet _ => .refused (.systemRegisterWrite .pstatus)
  | .pclatl =>
    match k with
    | .pure => .refused .pclatlPureWrite
    | .modify | .modifyFlags | .bitClear _ | .bitSet _ => .next { s with pc := s.pc.extractLsb' 8 6 ++ v }
  | .sbmset1 => .refused (.systemRegisterWrite .sbmset1)
  | .gieReg =>
    match k with
    | .bitClear b =>
      if b = s.cfg.bitpos.gie then .next { s with gie := false } else .refused (.systemRegisterWrite .gieReg)
    | .bitSet b =>
      if b = s.cfg.bitpos.gie then .next { s with gie := true } else .refused (.systemRegisterWrite .gieReg)
    | .pure | .modify | .modifyFlags => .refused (.systemRegisterWrite .gieReg)

/-! ## Data-space accesses -/

/-- One byte of data memory. -/
def dmRead (s : State) (a : DataAddr) : Option Byte := cellRead s.mem a.toNat

/-- Write one byte of data memory. -/
def dmWrite (s : State) (a : DataAddr) (v : Byte) : State := { s with mem := cellWrite s.mem a.toNat v }

/-- A read of an address that is no INDFx (`20` R78 cases 2 to 8). -/
def readDirect (s : State) (a : DataAddr) : Except Fault Byte :=
  match targetOf s.cfg a with
  | .wreg => .ok s.w
  | .reg r => .ok (readSfr s a r)
  | .ram =>
    match dmRead s a with
    | some v => .ok v
    | none => .error (.unwrittenCell a)
  | .absent => .error (.unimplementedAddress a)

/-- A write of an address that is no INDFx (`20` R79 cases 2 to 8). -/
def writeDirect (k : WriteKind) (s : State) (a : DataAddr) (v : Byte) : Out :=
  match targetOf s.cfg a with
  | .wreg => .next { s with w := v }
  | .reg r => writeSfr k s v r
  | .ram => .next (dmWrite s a v)
  | .absent => .fault (.unimplementedAddress a)

/-- `MemRead(addr, 1)` (`20` R78). -/
def memRead (s : State) (a : DataAddr) : Except Fault Byte :=
  match resolve s a with
  | .ok e => readDirect s e
  | .error f => .error f

/-- `MemWrite(addr, 1, v)` (`20` R79). -/
def memWrite (k : WriteKind) (s : State) (a : DataAddr) (v : Byte) : Out :=
  match resolve s a with
  | .ok e => writeDirect k s e v
  | .error f => .fault f

/-! ## Program memory as data -/

/-- The table pointer as one number (`10` R29). -/
def tablePtr (s : State) : Nat := s.tblptrh.byte.toNat * 256 + s.tblptrl.toNat

/-- `ProgRead` of the table pointer (`20` R73; `45` R331): open where the product has no word
(`93` U17; notes/assumptions/17.md). -/
def tableWord (s : State) : Word :=
  if tablePtr s < progSpace ∧ tablePtr s < s.cfg.progSize then
    match cellRead s.prog (tablePtr s) with
    | some c => c.word
    | none => Config.openWord s.tick .tableWord
  else Config.openWord s.tick .tableWord

end Sys2Proof.Machine
end

