-- ==== Sys2Proof/Machine/Operands.lean ====
section
/-! DEFINITION. The operand forms: the effective address of a file operand, the destination select, and the
shapes the families share (read, compute, write back). -/

namespace Sys2Proof.Machine

/-- `EA(f, a)` (`20` R76): f itself, or BSRCN[2:0] ∥ f. -/
def effAddr (f : Byte) (a : Bank) (s : State) : DataAddr :=
  match a with
  | .zero => f.setWidth 11
  | .bsr => s.bsrcn ++ f

/-- `Dest(d, ea, v)` (`20` R80). -/
def dest (k : WriteKind) (d : Dest) (ea : DataAddr) (v : Byte) (s : State) : Out :=
  match d with
  | .w => .next { s with w := v }
  | .f => memWrite k s ea v

/-- Read a data byte and go on with it, or stop with the read's fault. -/
def withByte (s : State) (ea : DataAddr) (k : Byte → Out) : Out :=
  match memRead s ea with
  | .ok x => k x
  | .error e => .fault e

/-- An (f, d, a) instruction that writes flags (`40` R219): `g` is its result from the state before and the
byte read. The PC moves first, so PCLATL and relative addresses see `next`. -/
def fileFlagged (f : Byte) (d : Dest) (a : Bank) (g : State → Byte → AluResult) (s : State) : Out :=
  let t := advance s 1
  withByte t (effAddr f a s) fun x =>
    dest .modifyFlags d (effAddr f a s) (g s x).r { t with status := (g s x).flags }

/-- An (f, d, a) instruction that writes no flag. -/
def fileUnflagged (f : Byte) (d : Dest) (a : Bank) (g : Byte → Byte) (s : State) : Out :=
  let t := advance s 1
  withByte t (effAddr f a s) fun x => dest .modify d (effAddr f a s) (g x) t

/-- An (f, a) instruction that writes a constant without reading (`40` R205, R214). -/
def fileStore (f : Byte) (a : Bank) (v : Byte) (s : State) : Out :=
  memWrite .pure (advance s 1) (effAddr f a s) v

/-- A bit instruction that writes the byte back (`44` R320 to R322). -/
def fileBit (k : WriteKind) (f : Byte) (a : Bank) (g : Byte → Byte) (s : State) : Out :=
  let t := advance s 1
  withByte t (effAddr f a s) fun x => memWrite k t (effAddr f a s) (g x)

/-- A literal instruction on W that writes flags (`41` R230 to R234). -/
def literalFlagged (g : State → AluResult) (s : State) : Out :=
  .next { advance s 1 with w := (g s).r, status := (g s).flags }

end Sys2Proof.Machine
end

