-- ==== Sys2Proof/Machine/Fetch.lean ====
section
/-! DEFINITION. Fetching: the instruction whose first word is at an address (`30` R100, R101; `10` R22), its
length, and the skip (`10` R50). -/

namespace Sys2Proof.Machine

/-- The second word of the two-word instruction at `a`, if the image has one there. -/
def secondWordAt (s : State) (a : Nat) : Option Word :=
  if a + 1 < progSpace ∧ a + 1 < s.cfg.progSize then
    match cellRead s.prog (a + 1) with
    | some { kind := .second, word := w } => some w
    | some { kind := .first, word := _ } | some { kind := .firstOfTwo, word := _ }
    | some { kind := .data, word := _ } | none => none
  else none

/-- The words of the instruction that starts at word address `a` (`30` R100), or why none starts there. -/
def imageAt (s : State) (a : Nat) : Except FetchError (List Word) :=
  if a < progSpace ∧ a < s.cfg.progSize then
    match cellRead s.prog a with
    | none => .error .nothingThere
    | some { kind := .data, word := _ } => .error .dataWord
    | some { kind := .second, word := _ } => .error .secondWord
    | some { kind := .first, word := w } => .ok [w]
    | some { kind := .firstOfTwo, word := w } =>
      match secondWordAt s a with
      | some w2 => .ok [w, w2]
      | none => .error .secondWordMissing
  else .error .beyondProgram

/-- The instruction at word address `a` (`30` R100), or why there is none. -/
def fetchAt (s : State) (a : Nat) : Except FetchError Instr :=
  match imageAt s a with
  | .ok ws =>
    match s.cfg.encoding.decodeImage ws with
    | .ok i => .ok i
    | .error e => .error (.badWords e)
  | .error e => .error e

/-- The address `Skip()` sets (`10` R50): `next + len(next)`, from a state whose PC is at `next`. None when
no instruction is at `next` or the target is outside the program (`42` R259; `92` D15). -/
def skipTarget (s : State) : Option ProgAddr :=
  if s.pcPast then none
  else
    match fetchAt s s.pc.toNat with
    | .ok i =>
      if s.pc.toNat + i.words < progSpace ∧ s.pc.toNat + i.words < s.cfg.progSize then
        some (s.pc + .ofNat 14 i.words)
      else none
    | .error _ => none

/-- `if cond then Skip()` for an instruction that writes nothing (`42` R259): `t` has its PC at `next`. -/
def skipIf (cond : Bool) (t : State) : Out :=
  if cond then
    match skipTarget t with
    | some p => .next (setPc t p)
    | none => .refused .skipOutsideProgram
  else .next t

/-- Whether a write at `ea` reaches PCLATL. -/
def reachesPclatl (s : State) (ea : DataAddr) : Bool :=
  match resolve s ea with
  | .ok e => targetOf s.cfg e == .reg .pclatl
  | .error _ => false

/-- A count-and-skip instruction (`42` R263 to R266): the result `g x` is stored either way, and `skip`
decides on it. Where the store writes PCLATL and the skip is taken, both write the PC and no rule says which
stands: the PC is open (notes/assumptions/18.md). -/
def countSkip (f : Byte) (d : Dest) (a : Bank) (g : Byte → Byte) (skip : Byte → Bool) (s : State) : Out :=
  let t := advance s 1
  let ea := effAddr f a s
  withByte t ea fun x =>
    match dest .modify d ea (g x) t with
    | .next u =>
      if skip (g x) then
        match skipTarget t with
        | some p =>
          if d = .f ∧ reachesPclatl t ea = true then
            .next (setPc u (Config.openAddr s.tick .pclatlSkip))
          else .next (setPc u p)
        | none => .refused .skipOutsideProgram
      else .next u
    | .fault e => .fault e
    | .refused r => .refused r

/-- A compare, test or bit test and skip (`42` R260 to R262, R267; `44` R323, R324): nothing is written. -/
def testSkip (f : Byte) (a : Bank) (cond : Byte → Bool) (s : State) : Out :=
  let t := advance s 1
  withByte t (effAddr f a s) fun x => skipIf (cond x) t

end Sys2Proof.Machine
end

