-- ==== Sys2Proof/Machine/BitOps.lean ====
section
/-! DEFINITION. The bit-oriented file register instructions of `spec/44_bit_ops.md`. -/

namespace Sys2Proof.Machine

/-- BCF f, b, a (`44` R320). -/
def execBcf (f : Byte) (b : BitVec 3) (a : Bank) (s : State) : Out :=
  fileBit (.bitClear b.toNat) f a (fun x => putBit x b.toNat false) s

/-- BSF f, b, a (`44` R321). -/
def execBsf (f : Byte) (b : BitVec 3) (a : Bank) (s : State) : Out :=
  fileBit (.bitSet b.toNat) f a (fun x => putBit x b.toNat true) s

/-- BTGF f, b, a (`44` R322). -/
def execBtgf (f : Byte) (b : BitVec 3) (a : Bank) (s : State) : Out :=
  fileBit .modify f a (fun x => x ^^^ BitVec.twoPow 8 b.toNat) s

/-- BTSS f, b, a (`44` R323). -/
def execBtss (f : Byte) (b : BitVec 3) (a : Bank) (s : State) : Out :=
  testSkip f a (fun x => x.getLsbD b.toNat) s

/-- BTSZ f, b, a (`44` R324). -/
def execBtsz (f : Byte) (b : BitVec 3) (a : Bank) (s : State) : Out :=
  testSkip f a (fun x => !x.getLsbD b.toNat) s

end Sys2Proof.Machine
end

