-- ==== Sys2Proof/Machine/ByteOps.lean ====
section
/-! DEFINITION. The byte-oriented file register instructions of `spec/40_byte_arith_logic.md`. -/

namespace Sys2Proof.Machine

/-- ADDC f, d, a (`40` R200). -/
def execAddc (f : Byte) (d : Dest) (a : Bank) (s : State) : Out :=
  fileFlagged f d a (fun s x => add8 s.w x s.status.c) s

/-- ADDF f, d, a (`40` R201). -/
def execAddf (f : Byte) (d : Dest) (a : Bank) (s : State) : Out :=
  fileFlagged f d a (fun s x => add8 s.w x false) s

/-- ANDF f, d, a (`40` R202). -/
def execAndf (f : Byte) (d : Dest) (a : Bank) (s : State) : Out :=
  fileFlagged f d a (fun s x => resultNZ s.status (s.w &&& x)) s

/-- ARLC f, d, a (`40` R203). -/
def execArlc (f : Byte) (d : Dest) (a : Bank) (s : State) : Out :=
  fileFlagged f d a (fun s x => arlcResult s.status x) s

/-- ARRC f, d, a (`40` R204). -/
def execArrc (f : Byte) (d : Dest) (a : Bank) (s : State) : Out :=
  fileFlagged f d a (fun s x => arrcResult s.status x) s

/-- CLRF f, a (`40` R205): the old value is not read. -/
def execClrf (f : Byte) (a : Bank) (s : State) : Out := fileStore f a 0x00 s

/-- COMF f, d, a (`40` R206). -/
def execComf (f : Byte) (d : Dest) (a : Bank) (s : State) : Out :=
  fileFlagged f d a (fun s x => resultNZ s.status (~~~x)) s

/-- DCF f, d, a (`40` R207). -/
def execDcf (f : Byte) (d : Dest) (a : Bank) (s : State) : Out :=
  fileFlagged f d a (fun _ x => sub8 x 0x01 false) s

/-- INF f, d, a (`40` R208). -/
def execInf (f : Byte) (d : Dest) (a : Bank) (s : State) : Out :=
  fileFlagged f d a (fun _ x => add8 x 0x01 false) s

/-- IORF f, d, a (`40` R209). -/
def execIorf (f : Byte) (d : Dest) (a : Bank) (s : State) : Out :=
  fileFlagged f d a (fun s x => resultNZ s.status (s.w ||| x)) s

/-- RLF f, d, a (`40` R210). -/
def execRlf (f : Byte) (d : Dest) (a : Bank) (s : State) : Out :=
  fileFlagged f d a (fun s x => rlfResult s.status x) s

/-- RLFC f, d, a (`40` R211). -/
def execRlfc (f : Byte) (d : Dest) (a : Bank) (s : State) : Out :=
  fileFlagged f d a (fun s x => rlfcResult s.status x) s

/-- RRF f, d, a (`40` R212). -/
def execRrf (f : Byte) (d : Dest) (a : Bank) (s : State) : Out :=
  fileFlagged f d a (fun s x => rrfResult s.status x) s

/-- RRFC f, d, a (`40` R213). -/
def execRrfc (f : Byte) (d : Dest) (a : Bank) (s : State) : Out :=
  fileFlagged f d a (fun s x => rrfcResult s.status x) s

/-- SETF f, a (`40` R214): the old value is not read. -/
def execSetf (f : Byte) (a : Bank) (s : State) : Out := fileStore f a 0xFF s

/-- SUBC f, d, a (`40` R215): f - W - (1 - C). -/
def execSubc (f : Byte) (d : Dest) (a : Bank) (s : State) : Out :=
  fileFlagged f d a (fun s x => sub8 x s.w (!s.status.c)) s

/-- SUBF f, d, a (`40` R216): f - W. -/
def execSubf (f : Byte) (d : Dest) (a : Bank) (s : State) : Out :=
  fileFlagged f d a (fun s x => sub8 x s.w false) s

/-- SWPF f, d, a (`40` R217): no flag. -/
def execSwpf (f : Byte) (d : Dest) (a : Bank) (s : State) : Out := fileUnflagged f d a swapNibbles s

/-- XORF f, d, a (`40` R218). -/
def execXorf (f : Byte) (d : Dest) (a : Bank) (s : State) : Out :=
  fileFlagged f d a (fun s x => resultNZ s.status (s.w ^^^ x)) s

end Sys2Proof.Machine
end

