-- ==== Sys2Proof/Machine/Control.lean ====
section
/-! DEFINITION. The control instructions of `spec/43_control.md`: calls, returns, jumps, stack, watchdog, idle
and sleep. -/

namespace Sys2Proof.Machine

/-- CALL n, s (`43` R280): the return address is that of the instruction after the two words. -/
def execCall (n : ProgAddr) (sh : Bool) (s : State) : Out :=
  let t := advance s 2
  .next (pushThen (if sh then saveShadows t else t) (returnAddr t) fun u => setPc u n)

/-- RCALL n (`43` R281). -/
def execRcall (n : BitVec 11) (s : State) : Out :=
  let t := advance s 1
  .next (pushThen t (returnAddr t) fun u => setPc u (relTarget t n))

/-- RET s (`43` R284). -/
def execRet (sh : Bool) (s : State) : Out := popThen s fun u => if sh then restoreShadows u else u

/-- RETI s (`43` R285): the return from an interrupt also sets GIE. -/
def execReti (sh : Bool) (s : State) : Out :=
  popThen s fun u => { (if sh then restoreShadows u else u) with gie := true }

/-- RETL k (`43` R286). -/
def execRetl (k : Byte) (s : State) : Out := popThen s fun u => { u with w := k }

/-- JMP n (`43` R288). -/
def execJmp (n : ProgAddr) (s : State) : Out := .next (setPc s n)

/-- RJ n (`43` R289). -/
def execRj (n : BitVec 11) (s : State) : Out :=
  .next (setPc (advance s 1) (relTarget (advance s 1) n))

/-- A conditional relative jump (`43` R298). -/
def jumpIf (cond : Bool) (n : BitVec 8) (s : State) : Out :=
  let t := advance s 1
  .next (if cond then setPc t (relTarget t n) else t)

/-- JC n (`43` R290). -/
def execJc (n : BitVec 8) (s : State) : Out := jumpIf s.status.c n s

/-- JNC n (`43` R291). -/
def execJnc (n : BitVec 8) (s : State) : Out := jumpIf (!s.status.c) n s

/-- JN n (`43` R292). -/
def execJn (n : BitVec 8) (s : State) : Out := jumpIf s.status.n n s

/-- JNN n (`43` R293). -/
def execJnn (n : BitVec 8) (s : State) : Out := jumpIf (!s.status.n) n s

/-- JO n (`43` R294). -/
def execJo (n : BitVec 8) (s : State) : Out := jumpIf s.status.ov n s

/-- JNO n (`43` R295). -/
def execJno (n : BitVec 8) (s : State) : Out := jumpIf (!s.status.ov) n s

/-- JZ n (`43` R296). -/
def execJz (n : BitVec 8) (s : State) : Out := jumpIf s.status.z n s

/-- JNZ n (`43` R297). -/
def execJnz (n : BitVec 8) (s : State) : Out := jumpIf (!s.status.z) n s

/-- NOP (`43` R303). -/
def execNop (s : State) : Out := .next (advance s 1)

/-- POP (`43` R304): no flag, and nothing at SP = 0. -/
def execPop (s : State) : Out :=
  .next { advance s 1 with sp := if 1 ≤ s.sp then s.sp - 1 else s.sp }

/-- CWDT (`43` R305). -/
def execCwdt (s : State) : Out := .next { advance s 1 with wdt := 0, timeOut := false }

/-- IDLE (`43` R306). -/
def execIdle (s : State) : Out := .next { advance s 1 with idleb := true, run := .idle }

/-- SLP (`43` R307). -/
def execSlp (s : State) : Out := .next { advance s 1 with pd := true, run := .sleeping }

end Sys2Proof.Machine
end

