-- ==== Sys2Proof/Machine/LiteralMove.lean ====
section
/-! DEFINITION. The literal, move, multiply and pointer-load instructions of
`spec/41_literal_move_multiply.md`. -/

namespace Sys2Proof.Machine

/-- ADDL k (`41` R230). -/
def execAddl (k : Byte) (s : State) : Out := literalFlagged (fun s => add8 s.w k false) s

/-- ANDL k (`41` R231). -/
def execAndl (k : Byte) (s : State) : Out := literalFlagged (fun s => resultNZ s.status (s.w &&& k)) s

/-- IORL k (`41` R232). -/
def execIorl (k : Byte) (s : State) : Out := literalFlagged (fun s => resultNZ s.status (s.w ||| k)) s

/-- SUBL k (`41` R233): k - W. -/
def execSubl (k : Byte) (s : State) : Out := literalFlagged (fun s => sub8 k s.w false) s

/-- XORL k (`41` R234). -/
def execXorl (k : Byte) (s : State) : Out := literalFlagged (fun s => resultNZ s.status (s.w ^^^ k)) s

/-- MVL k (`41` R235): no flag. -/
def execMvl (k : Byte) (s : State) : Out := .next { advance s 1 with w := k }

/-- PRODH:PRODL take W times `x` (`41` R236, R237). -/
def setProduct (x : Byte) (s : State) : State :=
  { s with prodh := (product s.w x).extractLsb' 8 8, prodl := (product s.w x).setWidth 8 }

/-- MULF f, a (`41` R236): the byte is read before PROD is written. -/
def execMulf (f : Byte) (a : Bank) (s : State) : Out :=
  withByte (advance s 1) (effAddr f a s) fun x => .next (setProduct x (advance s 1))

/-- MULL k (`41` R237). -/
def execMull (k : Byte) (s : State) : Out := .next (setProduct k (advance s 1))

/-- MVF f, d, a (`41` R238): d = 0 loads W, d = 1 stores W without reading. -/
def execMvf (f : Byte) (d : Dest) (a : Bank) (s : State) : Out :=
  match d with
  | .w => withByte (advance s 1) (effAddr f a s) fun x => .next { advance s 1 with w := x }
  | .f => memWrite .pure (advance s 1) (effAddr f a s) s.w

/-- MVFF fs, fd (`41` R239; `92` D27): the read, with its INDFx resolved, comes before the write. -/
def execMvff (fs fd : DataAddr) (s : State) : Out :=
  withByte (advance s 2) fs fun x => memWrite .pure (advance s 2) fd x

/-- LBSR k (`41` R240). -/
def execLbsr (k : BitVec 3) (s : State) : Out := .next { advance s 1 with bsrcn := k }

/-- LDPR k, f (`41` R241): the upper five bits of FSRfH become 0. -/
def execLdpr (k : DataAddr) (f : FsrSel) (s : State) : Out :=
  let h : UpperReg := { byte := (k.extractLsb' 8 3).setWidth 8, hiOpen := false }
  match f with
  | .fsr0 => .next { advance s 2 with fsr0h := h, fsr0l := k.setWidth 8 }
  | .fsr1 => .next { advance s 2 with fsr1h := h, fsr1l := k.setWidth 8 }

end Sys2Proof.Machine
end

