-- ==== Sys2Proof/Machine/SkipOps.lean ====
section
/-! DEFINITION. The compare-, count- and test-and-skip instructions of `spec/42_compare_skip.md`. No flag is
written by any of them (`42` R259). -/

namespace Sys2Proof.Machine

/-- CPSE f, a (`42` R260). -/
def execCpse (f : Byte) (a : Bank) (s : State) : Out := testSkip f a (fun x => x == s.w) s

/-- CPSG f, a (`42` R261): unsigned (notes/assumptions/25.md). -/
def execCpsg (f : Byte) (a : Bank) (s : State) : Out := testSkip f a (fun x => decide (s.w.toNat < x.toNat)) s

/-- CPSL f, a (`42` R262): unsigned (notes/assumptions/25.md). -/
def execCpsl (f : Byte) (a : Bank) (s : State) : Out := testSkip f a (fun x => decide (x.toNat < s.w.toNat)) s

/-- DCSUZ f, d, a (`42` R263). -/
def execDcsuz (f : Byte) (d : Dest) (a : Bank) (s : State) : Out :=
  countSkip f d a (fun x => x - 1) (fun r => r != 0) s

/-- DCSZ f, d, a (`42` R264). -/
def execDcsz (f : Byte) (d : Dest) (a : Bank) (s : State) : Out :=
  countSkip f d a (fun x => x - 1) (fun r => r == 0) s

/-- INSUZ f, d, a (`42` R265). -/
def execInsuz (f : Byte) (d : Dest) (a : Bank) (s : State) : Out :=
  countSkip f d a (fun x => x + 1) (fun r => r != 0) s

/-- INSZ f, d, a (`42` R266). -/
def execInsz (f : Byte) (d : Dest) (a : Bank) (s : State) : Out :=
  countSkip f d a (fun x => x + 1) (fun r => r == 0) s

/-- TFSZ f, a (`42` R267). -/
def execTfsz (f : Byte) (a : Bank) (s : State) : Out := testSkip f a (fun x => x == 0) s

end Sys2Proof.Machine
end

