-- ==== Sys2Proof/Machine/TableOps.lean ====
section
/-! DEFINITION. The program-memory instructions of `spec/45_program_memory.md`. -/

namespace Sys2Proof.Machine

/-- TBLDH:TBLDL take the program word TBLPTR points to (`45` R331). -/
def loadTable (s : State) : State :=
  { s with tbldh := (tableWord s).extractLsb' 8 8, tbldl := (tableWord s).setWidth 8 }

/-- TBLPTR plus one (`45` R332): up to 3FFFH TBLPTRH takes bits 15:8 of the sum, its upper two bits 0 with them
(notes/assumptions/11.md); past 3FFFH the high half is open (notes/assumptions/17.md). -/
def bumpTable (s : State) : State :=
  let q := tablePtr s + 1
  { s with
    tblptrl := .ofNat 8 q
    tblptrh :=
      if q < progSpace then { byte := .ofNat 8 (q / 256), hiOpen := false }
      else { byte := Config.openByte s.tick .tblptrhPastEnd, hiOpen := true } }

/-- MVLP k (`45` R330): the two upper bits of TBLPTRH become 0. -/
def execMvlp (k : ProgAddr) (s : State) : Out :=
  .next { advance s 2 with
    tblptrh := { byte := (k.extractLsb' 8 6).setWidth 8, hiOpen := false }
    tblptrl := k.setWidth 8 }

/-- TBLR * (`45` R331). -/
def execTblr (s : State) : Out := .next (loadTable (advance s 1))

/-- TBLR *+ (`45` R332): the read uses the old pointer. -/
def execTblrInc (s : State) : Out := .next (bumpTable (loadTable (advance s 1)))

end Sys2Proof.Machine
end

