-- ==== Sys2Proof/Machine/Dispatch.lean ====
section
/-! DEFINITION. One arm for each constructor of `Instr`, in the order of `30` R104. -/

namespace Sys2Proof.Machine

def exec (i : Instr) (s : State) : Host.Outcome State Fault Refusal :=
  match i with
  | .addc f d a => Sys2Proof.Machine.execAddc f d a s
  | .addf f d a => Sys2Proof.Machine.execAddf f d a s
  | .addl k => Sys2Proof.Machine.execAddl k s
  | .andf f d a => Sys2Proof.Machine.execAndf f d a s
  | .andl k => Sys2Proof.Machine.execAndl k s
  | .arlc f d a => Sys2Proof.Machine.execArlc f d a s
  | .arrc f d a => Sys2Proof.Machine.execArrc f d a s
  | .clrf f a => Sys2Proof.Machine.execClrf f a s
  | .comf f d a => Sys2Proof.Machine.execComf f d a s
  | .cpse f a => Sys2Proof.Machine.execCpse f a s
  | .cpsg f a => Sys2Proof.Machine.execCpsg f a s
  | .cpsl f a => Sys2Proof.Machine.execCpsl f a s
  | .dcf f d a => Sys2Proof.Machine.execDcf f d a s
  | .dcsuz f d a => Sys2Proof.Machine.execDcsuz f d a s
  | .dcsz f d a => Sys2Proof.Machine.execDcsz f d a s
  | .inf f d a => Sys2Proof.Machine.execInf f d a s
  | .insuz f d a => Sys2Proof.Machine.execInsuz f d a s
  | .insz f d a => Sys2Proof.Machine.execInsz f d a s
  | .iorf f d a => Sys2Proof.Machine.execIorf f d a s
  | .iorl k => Sys2Proof.Machine.execIorl k s
  | .lbsr k => Sys2Proof.Machine.execLbsr k s
  | .ldpr k f => Sys2Proof.Machine.execLdpr k f s
  | .mulf f a => Sys2Proof.Machine.execMulf f a s
  | .mull k => Sys2Proof.Machine.execMull k s
  | .mvf f d a => Sys2Proof.Machine.execMvf f d a s
  | .mvff fs fd => Sys2Proof.Machine.execMvff fs fd s
  | .mvl k => Sys2Proof.Machine.execMvl k s
  | .retl k => Sys2Proof.Machine.execRetl k s
  | .rlf f d a => Sys2Proof.Machine.execRlf f d a s
  | .rlfc f d a => Sys2Proof.Machine.execRlfc f d a s
  | .rrf f d a => Sys2Proof.Machine.execRrf f d a s
  | .rrfc f d a => Sys2Proof.Machine.execRrfc f d a s
  | .setf f a => Sys2Proof.Machine.execSetf f a s
  | .subc f d a => Sys2Proof.Machine.execSubc f d a s
  | .subf f d a => Sys2Proof.Machine.execSubf f d a s
  | .subl k => Sys2Proof.Machine.execSubl k s
  | .swpf f d a => Sys2Proof.Machine.execSwpf f d a s
  | .tfsz f a => Sys2Proof.Machine.execTfsz f a s
  | .xorf f d a => Sys2Proof.Machine.execXorf f d a s
  | .xorl k => Sys2Proof.Machine.execXorl k s
  | .call n sh => Sys2Proof.Machine.execCall n sh s
  | .cwdt => Sys2Proof.Machine.execCwdt s
  | .idle => Sys2Proof.Machine.execIdle s
  | .jc n => Sys2Proof.Machine.execJc n s
  | .jmp n => Sys2Proof.Machine.execJmp n s
  | .jn n => Sys2Proof.Machine.execJn n s
  | .jnc n => Sys2Proof.Machine.execJnc n s
  | .jnn n => Sys2Proof.Machine.execJnn n s
  | .jno n => Sys2Proof.Machine.execJno n s
  | .jnz n => Sys2Proof.Machine.execJnz n s
  | .jo n => Sys2Proof.Machine.execJo n s
  | .jz n => Sys2Proof.Machine.execJz n s
  | .nop => Sys2Proof.Machine.execNop s
  | .pop => Sys2Proof.Machine.execPop s
  | .rcall n => Sys2Proof.Machine.execRcall n s
  | .ret sh => Sys2Proof.Machine.execRet sh s
  | .reti sh => Sys2Proof.Machine.execReti sh s
  | .rj n => Sys2Proof.Machine.execRj n s
  | .slp => Sys2Proof.Machine.execSlp s
  | .bcf f b a => Sys2Proof.Machine.execBcf f b a s
  | .bsf f b a => Sys2Proof.Machine.execBsf f b a s
  | .btgf f b a => Sys2Proof.Machine.execBtgf f b a s
  | .btss f b a => Sys2Proof.Machine.execBtss f b a s
  | .btsz f b a => Sys2Proof.Machine.execBtsz f b a s
  | .mvlp k => Sys2Proof.Machine.execMvlp k s
  | .tblr => Sys2Proof.Machine.execTblr s
  | .tblrInc => Sys2Proof.Machine.execTblrInc s

end Sys2Proof.Machine
end

