-- ==== Sys2Proof/Machine/Events.lean ====
section
/-! DEFINITION. What the environment does to the core between instructions: reset, watchdog time-out,
interrupt entry, wake-up (`60` R408, R411 to R413, R420, R425; notes/assumptions/28.md to 30.md). -/

namespace Sys2Proof.Machine

/-- Nothing arrives. -/
def EnvInput.quiet : EnvInput := { reset := false, wdt := false, irq := false, wake := false }

/-- What arrives at this boundary: the head of the schedule, and nothing when it is empty. -/
def inputNow (s : State) : EnvInput := s.inputs.headD EnvInput.quiet

/-- Past the boundary: its input is used up, the open values of the step are fresh, and the watchdog counter,
which runs outside the instruction stream, holds an open count (`10` R39). -/
def beginStep (s : State) : State :=
  { s with
    inputs := s.inputs.tail
    tick := s.tick + 1
    wdt := Config.openCount (s.tick + 1) .watchdog }

/-- Interrupt entry (`60` R412): push the PC, clear GIE, save the shadows if the product does, go to the
vector. On a full stack with SBMSET1<7> = 1 the push resets the chip and nothing more is done (`60` R400). -/
def interruptEntry (s : State) : State :=
  pushThen s (returnAddr s) fun u =>
    let v := if s.cfg.intShadowSave then saveShadows u else u
    setPc { v with gie := false, run := .running } s.cfg.intVector

/-- A watchdog time-out (`60` R420): TO is set and the machine is stuck, from whatever run state
(DESIGN CHOICE, notes/assumptions/29.md). -/
def watchdogTimeOut (s : State) : State := { s with timeOut := true, wdtStuck := true }

/-- The wake-up events of the halted state the CPU is in (`60` R425). -/
def wakeSet (s : State) : WakeSet :=
  match s.run with
  | .idle => s.cfg.idleWake
  | .running | .sleeping => s.cfg.sleepWake

/-- A boundary in Idle or Sleeping (`60` R425): an admitted interrupt request enters the interrupt if GIE = 1
and only resumes otherwise; the other event resumes; else nothing changes but that the input is used up.
IdleB and PD stay set. -/
def haltedStep (s : State) (e : EnvInput) : State :=
  if e.irq && (wakeSet s).irq then
    if s.gie then interruptEntry (beginStep s) else { beginStep s with run := .running }
  else if e.wake && (wakeSet s).other then { beginStep s with run := .running }
  else { s with inputs := s.inputs.tail }

end Sys2Proof.Machine
end

