-- ==== Sys2Proof/Machine/Front.lean ====
section
/-! DEFINITION. What `State.withFetchWord` stores: an instruction's words where the next fetch looks. -/

namespace Sys2Proof.Machine

/-- Put an instruction's word, or the two words of a two-word one, into the program image at the PC. -/
def loadWords (s : State) (w w2 : Word) : ProgMemory :=
  let a := s.pc.toNat
  let one := cellWrite s.prog a { kind := .first, word := w }
  match decode s.cfg.encoding [w, w2] with
  | .ok (i, _) =>
    if i.words = 2 then
      cellWrite (cellWrite s.prog a { kind := .firstOfTwo, word := w }) (a + 1) { kind := .second, word := w2 }
    else one
  | .error _ => one

/-- The state `s` with the instruction whose bits are `w` at the PC, and nothing standing between it and the
next step (notes/assumptions/4.md). -/
def placeAtPc (s : State) (nbits w : Nat) : State :=
  let n := w % 2 ^ nbits
  { s with
    prog := loadWords s (.ofNat 16 n) (.ofNat 16 (n / 65536))
    run := .running
    pcPast := false
    wdtStuck := false
    inputs := [] }

end Sys2Proof.Machine
end

