-- ==== Sys2Proof/Machine/Step.lean ====
section
/-! DEFINITION. One step of the machine (`10` R22; `60` R408, R411, R425) and the host's fetch interface. -/

namespace Sys2Proof.Machine

/-- The instruction of this step: fetch at the PC and run it (`10` R22). -/
def runInstr (s : State) : Out :=
  if s.pcPast then .refused .pcPastEnd
  else
    match fetchAt s s.pc.toNat with
    | .ok i => exec i (beginStep s)
    | .error e => .refused (.noInstruction e)

/-- One step: at a boundary first a reset, then a watchdog time-out, then an interrupt, then the next
instruction (`60` R408, R413; `92` D17). An admitted watchdog time-out is taken in every run state: whether one
can come in Idle or Sleeping is open in the spec (`60` R420, R425; `91` N15) and the model's choice, DESIGN CHOICE
(notes/assumptions/29.md). -/
def step (s : State) : Host.Outcome State Fault Refusal :=
  if s.wdtStuck then .fault .watchdogTimeOut
  else if (inputNow s).reset then .next (chipReset (beginStep s))
  else if (inputNow s).wdt && s.cfg.wdtEnabled then .next (watchdogTimeOut (beginStep s))
  else
    match s.run with
    | .running =>
      if (inputNow s).irq && s.gie then .next (interruptEntry (beginStep s)) else runInstr s
    | .idle | .sleeping => .next (haltedStep s (inputNow s))

/-- The state with the instruction whose bits are `w` where the next step fetches. -/
def State.withFetchWord (s : State) (nbits w : Nat) : State := placeAtPc s nbits w

end Sys2Proof.Machine
end

