-- ==== Sys2Proof/Machine/Run.lean ====
section
/-! DEFINITION. The end of a run (`70` R463, `92` D29): which states are final, and a run of bounded length with
its result (notes/assumptions/39.md). -/

namespace Sys2Proof.Machine

/-- The event takes a state in which the CPU repeats itself out of it: a reset, an admitted watchdog time-out, an
interrupt request that a running CPU accepts, a wake-up of a halted one (`60` R408, R411, R420, R425). -/
def disturbs (s : State) (e : EnvInput) : Bool :=
  e.reset || (e.wdt && s.cfg.wdtEnabled) ||
    match s.run with
    | .running => e.irq && s.gie
    | .idle | .sleeping => e.irq && (wakeSet s).irq || e.wake && (wakeSet s).other

/-- No event of the rest of the schedule disturbs the state. -/
def undisturbed (s : State) : Bool := s.inputs.all fun e => !disturbs s e

/-- The instruction at the PC jumps to itself (`70` R463(b)): JMP to its own address, or RJ with n = -1. -/
def atSelfJump (s : State) : Bool :=
  match fetchAt s s.pc.toNat with
  | .ok (.jmp n) => n == s.pc
  | .ok (.rj n) => n == -1
  | .ok _ | .error _ => false

/-- The run has ended here: the CPU is halted and no wake-up comes (`70` R463(a)), or it has reached a self-jump
and no interrupt comes (R463(b)). -/
def runEnded (s : State) : Bool :=
  !s.wdtStuck && undisturbed s &&
    match s.run with
    | .running => !s.pcPast && atSelfJump s
    | .idle | .sleeping => true

/-- The final state of a run that is at `s`, if it has ended here. Results are read from it (`70` R463). -/
def finalState (s : State) : Option State := if runEnded s then some s else none

/-- What a run of bounded length comes to. -/
inductive RunResult where
  /-- The run ended in this state (`70` R463(a), (b)). -/
  | final (s : State)
  /-- The run faulted: it has no final state (`70` R463(c)). -/
  | fault (f : Fault)
  /-- The run was refused: it has no final state (`70` R463(c)). -/
  | refused (r : Refusal)
  /-- The bound is used up and the run is at this state. -/
  | unfinished (s : State)
  deriving DecidableEq, Repr

/-- The run from `s`, for at most `n` steps: it stops at the first of the three ends of `70` R463. -/
def runFor : Nat → State → RunResult
  | 0, s =>
    match finalState s with
    | some t => .final t
    | none => .unfinished s
  | n + 1, s =>
    match finalState s with
    | some t => .final t
    | none =>
      match step s with
      | .next t => runFor n t
      | .fault f => .fault f
      | .refused r => .refused r

end Sys2Proof.Machine
end

