-- ==== Sys2Proof/Safety.lean ====
section
/-! DEFINITION. What a sound state and a safe run are, in the terms the claims use. -/

namespace Sys2Proof.Machine

/-- The stack's shape (`60` R403): L entries, and SP between 0 and L. -/
def stackWf (s : State) : Prop := s.stk.length = s.cfg.stackDepth ∧ s.sp ≤ s.cfg.stackDepth

/-- Data memory holds a value only at implemented general-purpose cells (`20` R79 cases 7 and 8). -/
def memInPlace (s : State) : Prop := ∀ a v, (a, v) ∈ s.mem → ∃ d : DataAddr, d.toNat = a ∧ targetOf s.cfg d = .ram

/-- A sound state: a sound product, both memories in canonical form, the stack in shape. -/
def State.Sound (s : State) : Prop :=
  cfgWf s.cfg = true ∧ Memory.wf s.mem = true ∧ ProgMemory.wf s.prog = true ∧ stackWf s ∧ memInPlace s

/-- No step of the next `n` stops. -/
def runsSafely : Nat → State → Prop
  | 0, _ => True
  | n + 1, s => ∃ t, step s = .next t ∧ runsSafely n t

/-- `t` is reached from `s` in some number of steps. -/
inductive Reaches (s : State) : State → Prop where
  | here : Reaches s s
  | step {t u : State} : Reaches s t → Machine.step t = .next u → Reaches s u

/-- Nothing comes from outside at the next boundary, and the CPU is running at an address of program memory:
the next step is that of an instruction. -/
def instrBoundary (s : State) : Prop :=
  s.wdtStuck = false ∧ s.run = .running ∧ s.pcPast = false ∧ (inputNow s).reset = false ∧
    ((inputNow s).wdt = true → s.cfg.wdtEnabled = false) ∧ ((inputNow s).irq = true → s.gie = false)

end Sys2Proof.Machine
end

