-- ==== Sys2Proof/Certificates/Slice0/Obligations.lean ====
section
/-! DEFINITION. The statements for the provers. The vocabulary of `Sys2Proof.Claims` says in the spec's own
terms what a result, a stored byte, a skip or a reset is, without the model's computations. -/

namespace Sys2Proof.Claims

open Sys2Proof.Machine

/-! ## Results and flags -/

/-- `add8` of `10` R47 in exact arithmetic: OV is the signed overflow. -/
structure IsSum (x y : Byte) (cin : Bool) (r : Byte) (fl : Flags) : Prop where
  value : r.toNat = (x.toNat + y.toNat + cin.toNat) % 256
  carry : fl.c = true ↔ 256 ≤ x.toNat + y.toNat + cin.toNat
  digit : fl.dc = true ↔ 16 ≤ x.toNat % 16 + y.toNat % 16 + cin.toNat
  negative : fl.n = true ↔ 128 ≤ r.toNat
  overflow : fl.ov = true ↔ x.toInt + y.toInt + cin.toNat < -128 ∨ 127 < x.toInt + y.toInt + cin.toNat
  zero : fl.z = true ↔ r.toNat = 0

/-- `sub8` of `10` R48 in exact arithmetic: C and DC tell that no borrow occurred. -/
structure IsDifference (x y : Byte) (bin : Bool) (r : Byte) (fl : Flags) : Prop where
  value : (r.toNat : Int) = ((x.toNat : Int) - y.toNat - bin.toNat) % 256
  carry : fl.c = true ↔ y.toNat + bin.toNat ≤ x.toNat
  digit : fl.dc = true ↔ y.toNat % 16 + bin.toNat ≤ x.toNat % 16
  negative : fl.n = true ↔ 128 ≤ r.toNat
  overflow : fl.ov = true ↔ x.toInt - y.toInt - bin.toNat < -128 ∨ 127 < x.toInt - y.toInt - bin.toNat
  zero : fl.z = true ↔ r.toNat = 0

/-- `setNZ` of `10` R49: N and Z from the result, C, DC and OV as they were. -/
structure SetsNZ (old : Flags) (r : Byte) (fl : Flags) : Prop where
  negative : fl.n = true ↔ 128 ≤ r.toNat
  zero : fl.z = true ↔ r.toNat = 0
  carry : fl.c = old.c
  digit : fl.dc = old.dc
  overflow : fl.ov = old.ov

/-- C is `c`; N and Z from the result; DC and OV as they were (`10` R24). -/
structure SetsCNZ (old : Flags) (c : Bool) (r : Byte) (fl : Flags) : Prop where
  negative : fl.n = true ↔ 128 ≤ r.toNat
  zero : fl.z = true ↔ r.toNat = 0
  carry : fl.c = c
  digit : fl.dc = old.dc
  overflow : fl.ov = old.ov

/-- `r` is `x` moved one place up with `b` at bit 0. -/
def IsShiftUp (x : Byte) (b : Bool) (r : Byte) : Prop :=
  r.getLsbD 0 = b ∧ ∀ k < 7, r.getLsbD (k + 1) = x.getLsbD k

/-- `r` is `x` moved one place down with `b` at bit 7. -/
def IsShiftDown (x : Byte) (b : Bool) (r : Byte) : Prop :=
  r.getLsbD 7 = b ∧ ∀ k < 7, r.getLsbD k = x.getLsbD (k + 1)

/-- `r` is, bit for bit, `g` of the bits of `x` and `y`. -/
def IsBitwise (g : Bool → Bool → Bool) (x y r : Byte) : Prop :=
  ∀ k < 8, r.getLsbD k = g (x.getLsbD k) (y.getLsbD k)

/-! ## Writes of a data byte (`20` R79) -/

/-- The targets that take any byte written to them: plain cells, W and the registers of `20` R79 case 3. -/
def takesByte (t : Target) : Bool :=
  [ .ram, .wreg, .reg .bsrcn, .reg .fsr0h, .reg .fsr0l, .reg .fsr1h, .reg .fsr1l, .reg .prodh, .reg .prodl,
    .reg .tblptrh, .reg .tblptrl, .reg .tbldh, .reg .tbldl ].contains t

/-- The registers of `20` R79 case 6. -/
def systemRegs : List Sfr := [.stkptr, .pstatus, .tosh, .tosl, .sbmset1, .gieReg]

/-- `t` is `s` but for the one plain cell `e`, which now holds `v`. -/
def Stored (s t : State) (e : DataAddr) (v : Byte) : Prop :=
  t = { s with mem := t.mem } ∧ dmRead t e = some v ∧ ∀ b : DataAddr, b ≠ e → dmRead t b = dmRead s b

/-- `t` is `s` after the byte `v` was written at `e`, and nothing else: `20` R79 cases 2 to 5 and 8. `s` has its
PC at `next`, so a write of PCLATL replaces the low byte of that. -/
def Landed (s t : State) (e : DataAddr) (v : Byte) : Prop :=
  match targetOf s.cfg e with
  | .ram => Stored s t e v
  | .wreg => t = { s with w := v }
  | .reg .bsrcn => t = { s with bsrcn := v.setWidth 3 }
  | .reg .fsr0h => t = { s with fsr0h := { byte := v, hiOpen := true } }
  | .reg .fsr0l => t = { s with fsr0l := v }
  | .reg .fsr1h => t = { s with fsr1h := { byte := v, hiOpen := true } }
  | .reg .fsr1l => t = { s with fsr1l := v }
  | .reg .prodh => t = { s with prodh := v }
  | .reg .prodl => t = { s with prodl := v }
  | .reg .tblptrh => t = { s with tblptrh := { byte := v, hiOpen := true } }
  | .reg .tblptrl => t = { s with tblptrl := v }
  | .reg .tbldh => t = { s with tbldh := v }
  | .reg .tbldl => t = { s with tbldl := v }
  | .reg .pclatl => ∃ p : ProgAddr, p.toNat = s.pc.toNat / 256 * 256 + v.toNat ∧ t = { s with pc := p }
  | .reg .status =>
    ∃ fl : Flags,
      (fl.c = v.getLsbD s.cfg.bitpos.c ∧ fl.dc = v.getLsbD s.cfg.bitpos.dc ∧ fl.n = v.getLsbD s.cfg.bitpos.n ∧
        fl.ov = v.getLsbD s.cfg.bitpos.ov ∧ fl.z = v.getLsbD s.cfg.bitpos.z) ∧
      t = { s with status := fl }
  | .reg .indf0 | .reg .indf1 | .reg .stkptr | .reg .pstatus | .reg .tosh | .reg .tosl | .reg .sbmset1
  | .reg .gieReg | .absent => False

/-! ## The shapes of the file instructions

In each, the byte read is the one at the operand's effective address seen from `next` (`advance s 1`). -/

/-- An (f, d, a) instruction that writes flags (`40` R219): `R s x r fl` says which result and flags the byte `x`
gives. With d = 0 W takes the result; with d = 1 the operand does, if it takes a byte or is PCLATL; STATUS and
the system registers refuse it (`20` R79 cases 5 and 6; `92` D12); an unreadable operand faults. -/
structure FlaggedRule (mk : Byte → Dest → Bank → Instr) (R : State → Byte → Byte → Flags → Prop) : Prop where
  toW : ∀ (s : State) (f : Byte) (a : Bank) (x : Byte), memRead (advance s 1) (effAddr f a s) = .ok x →
    ∃ r fl, R s x r fl ∧ exec (mk f .w a) s = .next { advance s 1 with w := r, status := fl }
  toF : ∀ (s : State) (f : Byte) (a : Bank) (x : Byte) (e : DataAddr),
    memRead (advance s 1) (effAddr f a s) = .ok x → resolve s (effAddr f a s) = .ok e →
    (takesByte (targetOf s.cfg e) = true ∨ targetOf s.cfg e = .reg .pclatl) →
    ∃ r fl t, R s x r fl ∧ exec (mk f .f a) s = .next t ∧ Landed { advance s 1 with status := fl } t e r
  onStatus : ∀ (s : State) (f : Byte) (a : Bank) (e : DataAddr), resolve s (effAddr f a s) = .ok e →
    targetOf s.cfg e = .reg .status → exec (mk f .f a) s = .refused .statusCollision
  onSystem : ∀ (s : State) (f : Byte) (a : Bank) (e : DataAddr) (q : Sfr), resolve s (effAddr f a s) = .ok e →
    q ∈ systemRegs → targetOf s.cfg e = .reg q → exec (mk f .f a) s = .refused (.systemRegisterWrite q)
  unreadable : ∀ (s : State) (f : Byte) (d : Dest) (a : Bank) (q : Fault),
    memRead (advance s 1) (effAddr f a s) = .error q → exec (mk f d a) s = .fault q

/-- An (f, d, a) instruction that writes no flag: as `FlaggedRule`, but STATUS takes the result too. -/
structure UnflaggedRule (mk : Byte → Dest → Bank → Instr) (R : Byte → Byte → Prop) : Prop where
  toW : ∀ (s : State) (f : Byte) (a : Bank) (x : Byte), memRead (advance s 1) (effAddr f a s) = .ok x →
    ∃ r, R x r ∧ exec (mk f .w a) s = .next { advance s 1 with w := r }
  toF : ∀ (s : State) (f : Byte) (a : Bank) (x : Byte) (e : DataAddr),
    memRead (advance s 1) (effAddr f a s) = .ok x → resolve s (effAddr f a s) = .ok e →
    (takesByte (targetOf s.cfg e) = true ∨ targetOf s.cfg e = .reg .pclatl ∨ targetOf s.cfg e = .reg .status) →
    ∃ r t, R x r ∧ exec (mk f .f a) s = .next t ∧ Landed (advance s 1) t e r
  onSystem : ∀ (s : State) (f : Byte) (a : Bank) (e : DataAddr) (q : Sfr), resolve s (effAddr f a s) = .ok e →
    q ∈ systemRegs → targetOf s.cfg e = .reg q → exec (mk f .f a) s = .refused (.systemRegisterWrite q)
  unreadable : ∀ (s : State) (f : Byte) (d : Dest) (a : Bank) (q : Fault),
    memRead (advance s 1) (effAddr f a s) = .error q → exec (mk f d a) s = .fault q

/-- A pure write of the byte `v s` at a file operand: PCLATL and the system registers refuse it, an absent
address and an INDFx that points to INDFx fault. -/
structure StoreRule (mk : Byte → Bank → Instr) (v : State → Byte) : Prop where
  lands : ∀ (s : State) (f : Byte) (a : Bank) (e : DataAddr), resolve s (effAddr f a s) = .ok e →
    (takesByte (targetOf s.cfg e) = true ∨ targetOf s.cfg e = .reg .status) →
    ∃ t, exec (mk f a) s = .next t ∧ Landed (advance s 1) t e (v s)
  onPclatl : ∀ (s : State) (f : Byte) (a : Bank) (e : DataAddr), resolve s (effAddr f a s) = .ok e →
    targetOf s.cfg e = .reg .pclatl → exec (mk f a) s = .refused .pclatlPureWrite
  onSystem : ∀ (s : State) (f : Byte) (a : Bank) (e : DataAddr) (q : Sfr), resolve s (effAddr f a s) = .ok e →
    q ∈ systemRegs → targetOf s.cfg e = .reg q → exec (mk f a) s = .refused (.systemRegisterWrite q)
  onAbsent : ∀ (s : State) (f : Byte) (a : Bank) (e : DataAddr), resolve s (effAddr f a s) = .ok e →
    targetOf s.cfg e = .absent → exec (mk f a) s = .fault (.unimplementedAddress e)
  unresolved : ∀ (s : State) (f : Byte) (a : Bank) (q : Fault), resolve s (effAddr f a s) = .error q →
    exec (mk f a) s = .fault q

/-- A bit instruction that writes back (`44` R320 to R322): bit `b` becomes `g` of what it was, the other seven
are written back as read. The system registers are another statement's matter. -/
structure BitRule (mk : Byte → BitVec 3 → Bank → Instr) (g : Bool → Bool) : Prop where
  lands : ∀ (s : State) (f : Byte) (b : BitVec 3) (a : Bank) (x : Byte) (e : DataAddr),
    memRead (advance s 1) (effAddr f a s) = .ok x → resolve s (effAddr f a s) = .ok e →
    (takesByte (targetOf s.cfg e) = true ∨ targetOf s.cfg e = .reg .pclatl ∨ targetOf s.cfg e = .reg .status) →
    ∃ (r : Byte) (t : State),
      (∀ k < 8, r.getLsbD k = if k = b.toNat then g (x.getLsbD k) else x.getLsbD k) ∧
      exec (mk f b a) s = .next t ∧ Landed (advance s 1) t e r
  unreadable : ∀ (s : State) (f : Byte) (b : BitVec 3) (a : Bank) (q : Fault),
    memRead (advance s 1) (effAddr f a s) = .error q → exec (mk f b a) s = .fault q

/-! ## Skips (`10` R50) -/

/-- The instruction `j` follows the one-word instruction at the PC, and the address after it is in the program. -/
def CanSkip (s : State) (j : Instr) : Prop :=
  fetchAt s (s.pc.toNat + 1) = .ok j ∧ s.pc.toNat + 1 + j.words < s.cfg.progSize ∧
    s.pc.toNat + 1 + j.words < progSpace

/-- `u`, with the PC past the instruction `j` after the one at `s`'s PC. -/
def skipPast (s u : State) (j : Instr) : State :=
  { u with pc := .ofNat 14 (s.pc.toNat + 1 + j.words), pcPast := false }

/-- An (f, a) instruction that writes nothing and skips when `cond` holds. -/
structure TestSkipRule (mk : Byte → Bank → Instr) (cond : State → Byte → Prop) : Prop where
  stays : ∀ (s : State) (f : Byte) (a : Bank) (x : Byte), memRead (advance s 1) (effAddr f a s) = .ok x →
    ¬cond s x → exec (mk f a) s = .next (advance s 1)
  skips : ∀ (s : State) (f : Byte) (a : Bank) (x : Byte) (j : Instr),
    memRead (advance s 1) (effAddr f a s) = .ok x → cond s x → CanSkip s j →
    exec (mk f a) s = .next (skipPast s (advance s 1) j)
  outside : ∀ (s : State) (f : Byte) (a : Bank) (x : Byte), memRead (advance s 1) (effAddr f a s) = .ok x →
    cond s x → (∀ j, ¬CanSkip s j) → exec (mk f a) s = .refused .skipOutsideProgram
  unreadable : ∀ (s : State) (f : Byte) (a : Bank) (q : Fault),
    memRead (advance s 1) (effAddr f a s) = .error q → exec (mk f a) s = .fault q

/-- A count-and-skip instruction (`42` R263 to R266): the result is the byte plus `inc` modulo 256; it is stored
either way, no flag is written, and the skip is taken exactly when `cond` holds of it. Where the result goes to
PCLATL and the skip is taken, the PC is open: the MODEL's own choice (DESIGN CHOICE, notes/assumptions/18.md). -/
structure CountSkipRule (mk : Byte → Dest → Bank → Instr) (inc : Nat) (cond : Byte → Prop) : Prop where
  toW : ∀ (s : State) (f : Byte) (a : Bank) (x r : Byte), memRead (advance s 1) (effAddr f a s) = .ok x →
    r.toNat = (x.toNat + inc) % 256 →
    (¬cond r → exec (mk f .w a) s = .next { advance s 1 with w := r }) ∧
      ∀ j, cond r → CanSkip s j → exec (mk f .w a) s = .next (skipPast s { advance s 1 with w := r } j)
  toF : ∀ (s : State) (f : Byte) (a : Bank) (x r : Byte) (e : DataAddr),
    memRead (advance s 1) (effAddr f a s) = .ok x → r.toNat = (x.toNat + inc) % 256 →
    resolve s (effAddr f a s) = .ok e →
    (takesByte (targetOf s.cfg e) = true ∨ targetOf s.cfg e = .reg .pclatl ∨ targetOf s.cfg e = .reg .status) →
    ∃ u, Landed (advance s 1) u e r ∧
      (¬cond r → exec (mk f .f a) s = .next u) ∧
      ∀ j, cond r → CanSkip s j →
        (targetOf s.cfg e ≠ .reg .pclatl → exec (mk f .f a) s = .next (skipPast s u j)) ∧
        (targetOf s.cfg e = .reg .pclatl →
          ∃ p, exec (mk f .f a) s = .next { advance s 1 with pc := p, pcPast := false })
  outside : ∀ (s : State) (f : Byte) (d : Dest) (a : Bank) (x r : Byte) (e : DataAddr),
    memRead (advance s 1) (effAddr f a s) = .ok x → r.toNat = (x.toNat + inc) % 256 →
    resolve s (effAddr f a s) = .ok e →
    (d = .w ∨ takesByte (targetOf s.cfg e) = true ∨ targetOf s.cfg e = .reg .pclatl ∨
      targetOf s.cfg e = .reg .status) →
    cond r → (∀ j, ¬CanSkip s j) → exec (mk f d a) s = .refused .skipOutsideProgram
  onSystem : ∀ (s : State) (f : Byte) (a : Bank) (e : DataAddr) (q : Sfr), resolve s (effAddr f a s) = .ok e →
    q ∈ systemRegs → targetOf s.cfg e = .reg q → exec (mk f .f a) s = .refused (.systemRegisterWrite q)
  unreadable : ∀ (s : State) (f : Byte) (d : Dest) (a : Bank) (q : Fault),
    memRead (advance s 1) (effAddr f a s) = .error q → exec (mk f d a) s = .fault q

/-! ## Jumps, the stack, the reset -/

/-- `p` is the target of a relative operand `n` of the one-word instruction at the PC (`30` R106). -/
def IsRelTarget (s : State) {k : Nat} (n : BitVec k) (p : ProgAddr) : Prop :=
  (p.toNat : Int) = ((s.pc.toNat : Int) + 1 + n.toInt) % 16384

/-- A conditional relative jump (`43` R298). -/
def JumpRule (mk : BitVec 8 → Instr) (taken : Flags → Prop) : Prop :=
  ∀ (s : State) (n : BitVec 8),
    (taken s.status → ∃ p, IsRelTarget s n p ∧ exec (mk n) s = .next { s with pc := p, pcPast := false }) ∧
    (¬taken s.status → exec (mk n) s = .next (advance s 1))

/-- `v` is the return address of a call of `n` words at the PC: the address after it, anything where there is no
such address. -/
def IsReturnAddr (s : State) (n : Nat) (v : ProgAddr) : Prop :=
  s.pc.toNat + n < progSpace → v.toNat = s.pc.toNat + n

/-- `s` with `v` pushed on a stack that is not full (`60` R400). -/
def pushed (s : State) (v : ProgAddr) : State :=
  { s with
    sp := s.sp + 1
    stk := s.stk.set s.sp v
    stkfl := s.stkfl || decide (s.sp + 1 = s.cfg.stackDepth) }

/-- `t` is a state after a chip reset raised in `s` (`70` R450; `10` R46). What is not named here is open. -/
structure IsReset (s t : State) : Prop where
  pc : t.pc = 0 ∧ t.pcPast = false
  running : t.run = .running ∧ t.wdtStuck = false
  stack : t.sp = 0 ∧ t.stk.length = s.cfg.stackDepth
  interrupts : t.gie = false
  option : t.sbmset7 = s.cfg.sbmset7
  sticky : s.cfg.resetKeepsFlags = true →
    t.stkfl = s.stkfl ∧ t.stkov = s.stkov ∧ t.stkun = s.stkun ∧ t.skerr = s.skerr ∧ t.timeOut = s.timeOut ∧
      t.idleb = s.idleb ∧ t.pd = s.pd
  memories : t.mem = [] ∧ t.prog = s.prog
  outside : t.cfg = s.cfg ∧ t.inputs = s.inputs ∧ t.tick = s.tick

/-- W, STATUS and BSRCN come from the shadows if s = 1 (`43` R284). -/
def restored (sh : Bool) (s : State) : State :=
  { s with
    w := if sh then s.wregsdw else s.w
    status := if sh then s.stasdw else s.status
    bsrcn := if sh then s.bsrsdw else s.bsrcn }

/-- The shadows take W, STATUS and BSRCN if s = 1 (`43` R280). -/
def shadowed (sh : Bool) (s : State) : State :=
  { s with
    wregsdw := if sh then s.w else s.wregsdw
    stasdw := if sh then s.status else s.stasdw
    bsrsdw := if sh then s.bsrcn else s.bsrsdw }

/-! ## What a step does, for the rules about the whole machine -/

/-- The step at `s` is that of the instruction `i`. -/
def Runs (s : State) (i : Instr) : Prop := instrBoundary s ∧ fetchAt s s.pc.toNat = .ok i

/-- The step at `s` is a chip reset: its outcome is the reset state of some state. -/
def WasReset (t : State) : Prop := ∃ u, t = chipReset u

/-- The step at `s` enters an interrupt (`60` R411, R425). -/
def EntersInterrupt (s : State) : Prop :=
  s.wdtStuck = false ∧ (inputNow s).irq = true ∧ s.gie = true ∧
    (s.run = .running ∨ (s.run = .idle ∧ s.cfg.idleWake.irq = true) ∨ (s.run = .sleeping ∧ s.cfg.sleepWake.irq = true))

/-- The data-space address an instruction writes through, before INDFx is resolved: the operand of a d = 1 form,
of CLRF, SETF and the bit writes, and MVFF's second operand. -/
def writeOperand (s : State) : Instr → Option DataAddr
  | .addc f .f a | .addf f .f a | .andf f .f a | .arlc f .f a | .arrc f .f a | .comf f .f a | .dcf f .f a
  | .dcsuz f .f a | .dcsz f .f a | .inf f .f a | .insuz f .f a | .insz f .f a | .iorf f .f a | .mvf f .f a
  | .rlf f .f a | .rlfc f .f a | .rrf f .f a | .rrfc f .f a | .subc f .f a | .subf f .f a | .swpf f .f a
  | .xorf f .f a => some (effAddr f a s)
  | .clrf f a | .setf f a => some (effAddr f a s)
  | .bcf f _ a | .bsf f _ a | .btgf f _ a => some (effAddr f a s)
  | .mvff _ fd => some fd
  | _ => none

/-- The instruction's write goes to `e`. -/
def WritesAt (s : State) (i : Instr) (e : DataAddr) : Prop :=
  ∃ a, writeOperand s i = some a ∧ resolve s a = .ok e

/-- The instructions with a d operand, with d = 0 (`10` R20). -/
def storesToW : Instr → Bool
  | .addc _ .w _ | .addf _ .w _ | .andf _ .w _ | .arlc _ .w _ | .arrc _ .w _ | .comf _ .w _ | .dcf _ .w _
  | .dcsuz _ .w _ | .dcsz _ .w _ | .inf _ .w _ | .insuz _ .w _ | .insz _ .w _ | .iorf _ .w _ | .mvf _ .w _
  | .rlf _ .w _ | .rlfc _ .w _ | .rrf _ .w _ | .rrfc _ .w _ | .subc _ .w _ | .subf _ .w _ | .swpf _ .w _
  | .xorf _ .w _ => true
  | .addl _ | .andl _ | .iorl _ | .subl _ | .xorl _ | .mvl _ | .retl _ => true
  | .ret sh | .reti sh => sh
  | _ => false

/-- The flag writers of `10` R24 that write all five flags. -/
def writesFive : Instr → Bool
  | .addc _ _ _ | .addf _ _ _ | .addl _ | .dcf _ _ _ | .inf _ _ _ | .subc _ _ _ | .subf _ _ _ | .subl _ => true
  | .ret sh | .reti sh => sh
  | _ => false

/-- The flag writers of `10` R24 that write C. -/
def writesC (i : Instr) : Bool :=
  writesFive i || match i with
    | .arlc _ _ _ | .arrc _ _ _ | .rlfc _ _ _ | .rrfc _ _ _ => true
    | _ => false

/-- The flag writers of `10` R24 that write OV. -/
def writesOv (i : Instr) : Bool :=
  writesFive i || match i with
    | .arlc _ _ _ => true
    | _ => false

/-- The flag writers of `10` R24 that write N and Z. -/
def writesNz (i : Instr) : Bool :=
  writesC i || match i with
    | .andf _ _ _ | .andl _ | .comf _ _ _ | .iorf _ _ _ | .iorl _ | .rlf _ _ _ | .rrf _ _ _ | .xorf _ _ _
    | .xorl _ => true
    | _ => false

/-- No instruction's image is a prefix of another's, so that a list of words can be read from its start alone. -/
def PrefixFree (enc : Encoding) : Prop :=
  ∀ i j : Instr, i.wf = true → j.wf = true → encode enc i <+: encode enc j → i = j

/-- The program image holds the instruction `i` at address `a`: its words, the first marked with how many there are,
the second, if there is one, as a second word (`30` R100). -/
def PlacedAt (s : State) (a : Nat) (i : Instr) : Prop :=
  a + i.words ≤ s.cfg.progSize ∧
    match encode s.cfg.encoding i with
    | [w] => cellRead s.prog a = some { kind := .first, word := w }
    | [w, w2] =>
      cellRead s.prog a = some { kind := .firstOfTwo, word := w } ∧
        cellRead s.prog (a + 1) = some { kind := .second, word := w2 }
    | _ => False

end Sys2Proof.Claims

section

open Sys2Proof Sys2Proof.Machine Sys2Proof.Claims

/-! ## Encoding -/

/-- A few words of the default product's opcode table, written out bit by bit, decode to the instructions they
stand for. The numbering is the model's own (DESIGN CHOICE, notes/assumptions/2.md). -/
def Obligations.DecodeReadsWrittenWords : Prop :=
  decodeTableWord 16 0b0110001010000000 = some (.addc 0x80 .w .bsr) ∧
  decodeTableWord 16 0b1100011000001111 = some (.addl 0x0F) ∧
  decodeTableWord 16 0b1011101010000000 = some (.cpse 0x80 .zero) ∧
  decodeTableWord 16 0b0001001010000000 = some (.bcf 0x80 2 .zero) ∧
  decodeTableWord 16 0b1100111011111111 = some (.jc 0xFF) ∧
  decodeTableWord 16 0b1101111111111111 = some (.rcall 0x7FF) ∧
  decodeTableWord 32 0b01010010001101001110100000000000 = some (.call 0x1234 true) ∧
  decodeTableWord 32 0b00000001011111111110100000000010 = some (.ldpr 0x17F .fsr0) ∧
  decodeTableWord 32 0b10001011100000001110100001001011 = some (.mvff 0x380 0x171) ∧
  decodeTableWord 16 0b1110100100010001 = some (.ret true) ∧
  decodeTableWord 16 0b1110100100000110 = some .tblrInc ∧
  decodeTableWord 16 0b1111111111111111 = none

/-- Under any sound encoding, the image of an instruction with operands in range decodes to that instruction. Where
no image is a prefix of another, as under any opcode table, it does so with any words after it. -/
def Obligations.DecodeOfEncode : Prop :=
  ∀ (enc : Encoding) (i : Instr), enc.wf = true → i.wf = true →
    enc.decodeImage (encode enc i) = .ok i ∧
    (enc.listed = [] ∨ PrefixFree enc → ∀ rest, decode enc (encode enc i ++ rest) = .ok (i, rest))

/-- Under any sound encoding, whatever decodes was encoded: the words read are the instruction's own. -/
def Obligations.EncodeOfDecode : Prop :=
  ∀ (enc : Encoding) (ws : List Word) (i : Instr), enc.wf = true →
    (enc.decodeImage ws = .ok i → encode enc i = ws) ∧
    (∀ rest, decode enc ws = .ok (i, rest) → encode enc i ++ rest = ws)

/-- The image of an instruction has its length in words: two for CALL, JMP, LDPR, MVFF and MVLP, one for every
other (`30` R101). -/
def Obligations.EncodeLengthIsWords : Prop :=
  ∀ (enc : Encoding) (i : Instr), enc.wf = true →
    (encode enc i).length = i.words ∧
    (i.words = 1 ∨ i.words = 2) ∧
    (i.words = 2 ↔ i.op ∈ [Op.call, Op.jmp, Op.ldpr, Op.mvff, Op.mvlp])

/-- Under any encoding, sound or not, the decoder answers only instructions whose operands are in range, and it uses
up exactly their words (`30` R103, R107). -/
def Obligations.DecodedIsWellFormed : Prop :=
  ∀ (enc : Encoding) (ws : List Word) (i : Instr),
    (enc.decodeImage ws = .ok i → i.wf = true ∧ ws.length = i.words) ∧
    (∀ rest, decode enc ws = .ok (i, rest) → i.wf = true ∧ ws.length = i.words + rest.length)

/-! ## One step -/

/-- A step runs the decoded instruction: when the words at the PC decode to `i`, the step at a quiet boundary is
`exec i` of the state with the boundary's input used up and the tick moved on (`beginStep`, spelled out: the
registers, memories and PC are untouched but for the watchdog counter, which is open). -/
def Obligations.StepRunsDecodedInstruction : Prop :=
  ∀ (s : State) (i : Instr), instrBoundary s → s.pc.toNat < s.cfg.progSize →
    (∀ w, cellRead s.prog s.pc.toNat = some { kind := .first, word := w } →
      s.cfg.encoding.decodeImage [w] = .ok i →
      ∃ n, step s = exec i { s with inputs := s.inputs.tail, tick := s.tick + 1, wdt := n }) ∧
    (∀ w w2, cellRead s.prog s.pc.toNat = some { kind := .firstOfTwo, word := w } →
      s.pc.toNat + 1 < s.cfg.progSize → s.pc.toNat + 1 < progSpace →
      cellRead s.prog (s.pc.toNat + 1) = some { kind := .second, word := w2 } →
      s.cfg.encoding.decodeImage [w, w2] = .ok i →
      ∃ n, step s = exec i { s with inputs := s.inputs.tail, tick := s.tick + 1, wdt := n })

/-- A step runs the instruction whose image stands at the PC. -/
def Obligations.StepRunsPlacedInstruction : Prop :=
  ∀ (s : State) (i : Instr), s.cfg.encoding.wf = true → s.cfg.progSize ≤ progSpace → i.wf = true →
    instrBoundary s → PlacedAt s s.pc.toNat i →
    ∃ n, step s = exec i { s with inputs := s.inputs.tail, tick := s.tick + 1, wdt := n }

/-- Where no instruction starts at the PC, the step is refused: past the program, nothing placed, a data word, a
second word, a second word that is missing, words that decode to nothing; and after the PC ran past 3FFFH. That
these stop the step is the spec's own choice (decisions D15, D21, D26). -/
def Obligations.StepRefusesWithoutInstruction : Prop :=
  ∀ s : State, s.wdtStuck = false → s.run = .running → (inputNow s).reset = false →
    ((inputNow s).wdt = true → s.cfg.wdtEnabled = false) → ((inputNow s).irq = true → s.gie = false) →
    (s.pcPast = true → step s = .refused .pcPastEnd) ∧
    (s.pcPast = false →
      (s.cfg.progSize ≤ s.pc.toNat → step s = .refused (.noInstruction .beyondProgram)) ∧
      (s.pc.toNat < s.cfg.progSize →
        (cellRead s.prog s.pc.toNat = none → step s = .refused (.noInstruction .nothingThere)) ∧
        (∀ w, cellRead s.prog s.pc.toNat = some { kind := .data, word := w } →
          step s = .refused (.noInstruction .dataWord)) ∧
        (∀ w, cellRead s.prog s.pc.toNat = some { kind := .second, word := w } →
          step s = .refused (.noInstruction .secondWord)) ∧
        (∀ w q, cellRead s.prog s.pc.toNat = some { kind := .first, word := w } →
          s.cfg.encoding.decodeImage [w] = .error q → step s = .refused (.noInstruction (.badWords q))) ∧
        (∀ w, cellRead s.prog s.pc.toNat = some { kind := .firstOfTwo, word := w } →
          (secondWordAt s s.pc.toNat = none → step s = .refused (.noInstruction .secondWordMissing)) ∧
          (∀ w2 q, secondWordAt s s.pc.toNat = some w2 → s.cfg.encoding.decodeImage [w, w2] = .error q →
            step s = .refused (.noInstruction (.badWords q))))))

/-- Interrupt entry on a stack that is not full (`60` R411, R412): PC pushed, GIE cleared, shadows saved if the
product does so, PC at the vector, Running; nothing else changes but the boundary's input, the tick and the open
watchdog counter. On a full stack the push's overflow rule applies (`60` R400). The entry is the spec's own choice
(decisions D5, D17; notes/assumptions/28.md). -/
def Obligations.StepTakesInterrupt : Prop :=
  ∀ s : State, EntersInterrupt s → (inputNow s).reset = false →
    ((inputNow s).wdt = true → s.cfg.wdtEnabled = false) →
    ∃ n v, (s.pcPast = false → v = s.pc) ∧
      (s.sp < s.cfg.stackDepth →
        step s = .next
          { shadowed s.cfg.intShadowSave (pushed s v) with
            gie := false, pc := s.cfg.intVector, pcPast := false, run := .running,
            inputs := s.inputs.tail, tick := s.tick + 1, wdt := n }) ∧
      (s.cfg.stackDepth ≤ s.sp → s.sbmset7 = true →
        ∃ t, step s = .next t ∧
          IsReset { s with stkov := true, skerr := true, inputs := s.inputs.tail, tick := s.tick + 1 } t) ∧
      (s.cfg.stackDepth ≤ s.sp → s.sbmset7 = false →
        ∃ q, step s = .next
          { shadowed s.cfg.intShadowSave s with
            stkov := true, skerr := true, stk := s.stk.set (s.cfg.stackDepth - 1) q,
            gie := false, pc := s.cfg.intVector, pcPast := false, run := .running,
            inputs := s.inputs.tail, tick := s.tick + 1, wdt := n })

/-- Idle and Sleeping (`60` R425): with no admitted event nothing changes but that the boundary's input is used up;
an admitted event that is not an interrupt to be entered only makes the CPU run again, IdleB and PD as they are. The
spec's own choice (decision D20; notes/assumptions/30.md). -/
def Obligations.HaltedStepWaitsOrWakes : Prop :=
  ∀ (s : State) (k : WakeSet), s.wdtStuck = false → (inputNow s).reset = false →
    ((inputNow s).wdt = true → s.cfg.wdtEnabled = false) →
    ((s.run = .idle ∧ k = s.cfg.idleWake) ∨ (s.run = .sleeping ∧ k = s.cfg.sleepWake)) →
    (((inputNow s).irq = true → k.irq = false) → ((inputNow s).wake = true → k.other = false) →
      step s = .next { s with inputs := s.inputs.tail }) ∧
    (((inputNow s).irq = true ∧ k.irq = true → s.gie = false) →
      ((inputNow s).irq = true ∧ k.irq = true ∨ (inputNow s).wake = true ∧ k.other = true) →
      ∃ n, step s = .next { s with run := .running, inputs := s.inputs.tail, tick := s.tick + 1, wdt := n })

/-- A watchdog time-out the product admits sets TO and then no step is defined (`60` R420): the spec's own choice
(decision D19). That it may come in Idle and Sleeping too is the model's choice (notes/assumptions/29.md). -/
def Obligations.WatchdogTimeOutStops : Prop :=
  ∀ s : State, s.wdtStuck = false → (inputNow s).reset = false → (inputNow s).wdt = true → s.cfg.wdtEnabled = true →
    ∃ t n, step s = .next t ∧ step t = .fault .watchdogTimeOut ∧
      t = { s with timeOut := true, wdtStuck := true, inputs := s.inputs.tail, tick := s.tick + 1, wdt := n }

/-- A reset from outside comes before everything else at a boundary, and leaves the reset state (`60` R408;
`70` R450). The order and all of that state but PC = 000H are the spec's own choice (decisions D17, D18;
notes/assumptions/7.md, 35.md). -/
def Obligations.OutsideResetWins : Prop :=
  ∀ s : State, s.wdtStuck = false → (inputNow s).reset = true →
    ∃ t, step s = .next t ∧ IsReset { s with inputs := s.inputs.tail, tick := s.tick + 1 } t

/-! ## Invariants and rules of the whole machine -/

/-- The reset state of any sound product is sound. -/
def Obligations.ResetIsSound : Prop :=
  State.reset.Sound ∧ ∀ c : Cfg, cfgWf c = true → (State.resetWith c).Sound

/-- What the spec says of the state after reset (`10` R46): PC = 000H, Running, SP = 0, GIE = 0, SBMSET1<7> from
the product, no data cell with a value. PC = 000H is the source's, the rest the spec's own choice (decision D18). -/
def Obligations.ResetValues : Prop :=
  ∀ c : Cfg,
    (State.resetWith c).pc = 0 ∧ (State.resetWith c).run = .running ∧ (State.resetWith c).sp = 0 ∧
      (State.resetWith c).gie = false ∧ (State.resetWith c).sbmset7 = c.sbmset7 ∧
      tos (State.resetWith c) = 0 ∧ ∀ a, dmRead (State.resetWith c) a = none

/-- Every step keeps a sound state sound: both memories canonical, values only at implemented cells, the stack in
shape, the product record sound. -/
def Obligations.StepKeepsSound : Prop := ∀ s t : State, s.Sound → step s = .next t → t.Sound

/-- No step changes program memory or the product record (`10` R42, R44). -/
def Obligations.StepKeepsProgram : Prop :=
  ∀ s t : State, step s = .next t → t.prog = s.prog ∧ t.cfg = s.cfg

/-- GIE goes from 0 to 1 only by RETI or by BSF of the product's GIE bit (`60` R411). That every other write of the
GIE register is refused is the spec's own choice (decisions D12, D17; DESIGN CHOICE, notes/assumptions/20.md, 28.md). -/
def Obligations.GieRaisedOnlyByRetiOrBitSet : Prop :=
  ∀ s t : State, step s = .next t → s.gie = false → t.gie = true →
    ∃ i, Runs s i ∧
      ((∃ sh, i = .reti sh) ∨
        ∃ f b a e, i = .bsf f b a ∧ resolve s (effAddr f a s) = .ok e ∧ targetOf s.cfg e = .reg .gieReg ∧
          b.toNat = s.cfg.bitpos.gie.val)

/-- SP moves by one up, one down or not at all, but for a reset, and only calls, returns, POP and interrupt entry
move it; the entries at or below the smaller SP stay, but for the top entry of a full stack, which an
overflowing push spoils (`60` R403; decision D5; notes/assumptions/13.md). -/
def Obligations.StackPointerMovesByOne : Prop :=
  ∀ s t : State, stackWf s → step s = .next t → ¬WasReset t →
    (t.sp = s.sp ∨ t.sp = s.sp + 1 ∨ t.sp + 1 = s.sp) ∧
    (t.sp ≠ s.sp → EntersInterrupt s ∨
      ∃ i, Runs s i ∧ i.op ∈ [Op.call, Op.rcall, Op.ret, Op.reti, Op.retl, Op.pop]) ∧
    ∀ j, j < s.sp → j < t.sp → t.stk[j]? = s.stk[j]? ∨ (j + 1 = s.cfg.stackDepth ∧ s.sp = s.cfg.stackDepth)

/-- STKFL, STKOV, STKUN and SKERR, once set, stay set (`60` R400): only a reset or a BCF of their register clears
one. That a BCF clears them, and no other write does, is the spec's own choice (`60` R401, decision D12; DESIGN
CHOICE, notes/assumptions/20.md). -/
def Obligations.StackFlagsAreSticky : Prop :=
  ∀ s t : State, step s = .next t → ¬WasReset t →
    (s.stkfl = true ∧ t.stkfl = false ∨ s.stkov = true ∧ t.stkov = false ∨ s.stkun = true ∧ t.stkun = false →
      ∃ f b a e, Runs s (.bcf f b a) ∧ resolve s (effAddr f a s) = .ok e ∧ targetOf s.cfg e = .reg .stkptr) ∧
    (s.skerr = true ∧ t.skerr = false →
      ∃ f b a e, Runs s (.bcf f b a) ∧ resolve s (effAddr f a s) = .ok e ∧ targetOf s.cfg e = .reg .pstatus)

/-- The shadow registers change only by CALL with s = 1, by interrupt entry on a product that saves them, or by a
reset (`10` R37; `60` R412). -/
def Obligations.ShadowsChangeOnlyByCallOrEntry : Prop :=
  ∀ s t : State, step s = .next t → ¬WasReset t →
    t.wregsdw ≠ s.wregsdw ∨ t.stasdw ≠ s.stasdw ∨ t.bsrsdw ≠ s.bsrsdw →
    (∃ n, Runs s (.call n true)) ∨ (EntersInterrupt s ∧ s.cfg.intShadowSave = true)

/-- The CPU leaves Running only by IDLE and SLP (`10` R40; `60` R434), and these alone set IdleB and PD, but for a
reset. That no data-space write of Pstatus sets IdleB or PD (BSF and every byte write of it are refused) is the spec's
own choice (`20` R79 case 6, decision D12; DESIGN CHOICE, notes/assumptions/20.md). -/
def Obligations.RunningLeftOnlyByIdleOrSleep : Prop :=
  ∀ s t : State, step s = .next t → ¬WasReset t →
    (s.run = .running → t.run ≠ .running → Runs s .idle ∧ t.run = .idle ∨ Runs s .slp ∧ t.run = .sleeping) ∧
    (s.idleb = false → t.idleb = true → Runs s .idle) ∧ (s.pd = false → t.pd = true → Runs s .slp)

/-- An instruction changes data memory at most at the address its destination operand resolves to, and there only
if a plain cell stands there; every other byte reads as before. -/
def Obligations.StoresOnlyAtDestination : Prop :=
  ∀ (i : Instr) (s t : State), exec i s = .next t → ¬WasReset t → ∀ b : DataAddr,
    (∀ e, WritesAt s i e → targetOf s.cfg e = .ram → b ≠ e) → dmRead t b = dmRead s b

/-- The flags change only by the flag writers of `10` R24, each in the flags the rule names, and by a write of the
data address of STATUS. -/
def Obligations.FlagsChangeOnlyByWriters : Prop :=
  ∀ (i : Instr) (s t : State), exec i s = .next t → ¬WasReset t →
    (∀ e, WritesAt s i e → targetOf s.cfg e ≠ .reg .status) →
    (t.status.dc ≠ s.status.dc → writesFive i = true) ∧
    (t.status.ov ≠ s.status.ov → writesOv i = true) ∧
    (t.status.c ≠ s.status.c → writesC i = true) ∧
    (t.status.n ≠ s.status.n ∨ t.status.z ≠ s.status.z → writesNz i = true)

/-- W changes only by the writers `10` R20 lists: a d = 0 form, a literal form, a write of data address 02CH, a
return with s = 1, a reset. -/
def Obligations.WChangesOnlyByWriters : Prop :=
  ∀ (i : Instr) (s t : State), exec i s = .next t → ¬WasReset t → t.w ≠ s.w →
    storesToW i = true ∨ WritesAt s i 0x02C

/-! ## The flag formulas -/

/-- `add8` of `10` R47, by its formula, and its OV is the two's-complement signed overflow: a reading the spec marks
as derived (`93` U28; notes/assumptions/27.md). -/
def Obligations.AddFormula : Prop :=
  ∀ (x y : Byte) (cin : Bool),
    IsSum x y cin (add8 x y cin).r (add8 x y cin).flags ∧
    ((add8 x y cin).flags.ov = true ↔
      x.getLsbD 7 = y.getLsbD 7 ∧ (add8 x y cin).r.getLsbD 7 ≠ x.getLsbD 7) ∧
    ((add8 x y cin).flags.n = (add8 x y cin).r.getLsbD 7)

/-- `sub8` of `10` R48, by its formula, and its OV is the two's-complement signed overflow: with a borrow in, a reading
the spec marks as derived (`93` U28; DEDUCED, notes/assumptions/27.md). -/
def Obligations.SubtractFormula : Prop :=
  ∀ (x y : Byte) (bin : Bool),
    IsDifference x y bin (sub8 x y bin).r (sub8 x y bin).flags ∧
    ((sub8 x y bin).flags.ov = true ↔
      x.getLsbD 7 ≠ y.getLsbD 7 ∧ (sub8 x y bin).r.getLsbD 7 ≠ x.getLsbD 7) ∧
    ((sub8 x y bin).flags.n = (sub8 x y bin).r.getLsbD 7)

/-! ## File instructions -/

/-- ADDC, ADDF, DCF, INF, SUBC, SUBF: result, all five flags, destination, frame. OV of the additions,
and of SUBC with a borrow in, is the signed overflow, a reading the spec marks as derived (`10` R47; `93` U28;
notes/assumptions/27.md). The refusals on STATUS and the system registers and the write of PCLATL are the spec's own
choices (decisions D12, D13; notes/assumptions/18.md, 19.md, 20.md). -/
def Obligations.FileArithmetic : Prop :=
  FlaggedRule .addc (fun s x r fl => IsSum s.w x s.status.c r fl) ∧
  FlaggedRule .addf (fun s x r fl => IsSum s.w x false r fl) ∧
  FlaggedRule .dcf (fun _ x r fl => IsDifference x 1 false r fl) ∧
  FlaggedRule .inf (fun _ x r fl => IsSum x 1 false r fl) ∧
  FlaggedRule .subc (fun s x r fl => IsDifference x s.w (!s.status.c) r fl) ∧
  FlaggedRule .subf (fun s x r fl => IsDifference x s.w false r fl)

/-- ANDF, COMF, IORF, XORF: result, N and Z, destination, frame. The refusals on STATUS and the system registers and
the write of PCLATL are the spec's own choices (decisions D12, D13; notes/assumptions/18.md, 19.md, 20.md). -/
def Obligations.FileLogic : Prop :=
  FlaggedRule .andf (fun s x r fl => IsBitwise (· && ·) s.w x r ∧ SetsNZ s.status r fl) ∧
  FlaggedRule .comf (fun s x r fl => IsBitwise (fun _ b => !b) s.w x r ∧ SetsNZ s.status r fl) ∧
  FlaggedRule .iorf (fun s x r fl => IsBitwise (· || ·) s.w x r ∧ SetsNZ s.status r fl) ∧
  FlaggedRule .xorf (fun s x r fl => IsBitwise (fun b c => b != c) s.w x r ∧ SetsNZ s.status r fl)

/-- ARLC: as RLFC, but it also writes OV, which is 1 exactly when bit 7 changes. The source shows OV in three
examples only; the rule for every case is the spec's own choice (`40` R203, decision D10; notes/assumptions/26.md).
So are the refusals on STATUS and the system registers and the write of PCLATL (decisions D12, D13;
notes/assumptions/18.md, 19.md, 20.md). -/
def Obligations.RotateLeftWithOverflow : Prop :=
  FlaggedRule .arlc (fun s x r fl =>
    IsShiftUp x s.status.c r ∧ fl.c = x.getLsbD 7 ∧ (fl.ov = true ↔ x.getLsbD 7 ≠ r.getLsbD 7) ∧
      (fl.n = true ↔ 128 ≤ r.toNat) ∧ (fl.z = true ↔ r.toNat = 0) ∧ fl.dc = s.status.dc)

/-- ARRC, RLF, RLFC, RRF, RRFC: result, flags, destination, frame. The refusals on STATUS and the system registers
and the write of PCLATL are the spec's own choices (decisions D12, D13; notes/assumptions/18.md, 19.md, 20.md). -/
def Obligations.FileRotates : Prop :=
  FlaggedRule .arrc (fun s x r fl => IsShiftDown x (x.getLsbD 7) r ∧ SetsCNZ s.status (x.getLsbD 0) r fl) ∧
  FlaggedRule .rlf (fun s x r fl => IsShiftUp x (x.getLsbD 7) r ∧ SetsNZ s.status r fl) ∧
  FlaggedRule .rlfc (fun s x r fl => IsShiftUp x s.status.c r ∧ SetsCNZ s.status (x.getLsbD 7) r fl) ∧
  FlaggedRule .rrf (fun s x r fl => IsShiftDown x (x.getLsbD 0) r ∧ SetsNZ s.status r fl) ∧
  FlaggedRule .rrfc (fun s x r fl => IsShiftDown x s.status.c r ∧ SetsCNZ s.status (x.getLsbD 0) r fl)

/-- SWPF: the two nibbles exchanged, no flag. The refusal on the system registers, the write of STATUS and that of
PCLATL are the spec's own choices (decisions D12, D13; notes/assumptions/18.md, 20.md). -/
def Obligations.SwapNibbles : Prop :=
  UnflaggedRule .swpf (fun x r => r.toNat = x.toNat % 16 * 16 + x.toNat / 16)

/-- CLRF stores 000H, SETF 0FFH: the old byte is not read and no flag is written. The refusals on PCLATL and the
system registers and the faults on an absent address and on INDFx pointing to INDFx are the spec's own choices
(decisions D11 to D14; notes/assumptions/18.md, 20.md, 21.md, 22.md). -/
def Obligations.FileStores : Prop :=
  StoreRule .clrf (fun _ => 0x00) ∧ StoreRule .setf (fun _ => 0xFF)

/-- MVF with d = 0 loads W with the byte at the operand; with d = 1 it stores W there, without reading the cell
first; no flag is written. The refusals on PCLATL and the system registers and the faults on an absent address and on
INDFx pointing to INDFx are the spec's own choices (decisions D11 to D14; notes/assumptions/18.md, 20.md, 21.md,
22.md). -/
def Obligations.MoveFile : Prop :=
  (∀ (s : State) (f : Byte) (a : Bank),
    (∀ x, memRead (advance s 1) (effAddr f a s) = .ok x → exec (.mvf f .w a) s = .next { advance s 1 with w := x }) ∧
    (∀ q, memRead (advance s 1) (effAddr f a s) = .error q → exec (.mvf f .w a) s = .fault q)) ∧
  StoreRule (fun f a => .mvf f .f a) (fun s => s.w)

/-- MVFF: the byte at fs goes to fd; both are resolved through FSRx as they were before the instruction, and the
read comes before the write (`41` R239). That order is the spec's own choice (decision D27; notes/assumptions/34.md), and so
are the refusals on PCLATL and the system registers and the faults on an absent address and on INDFx pointing to INDFx
(decisions D11 to D14; notes/assumptions/18.md, 20.md, 21.md, 22.md). -/
def Obligations.MoveFileToFile : Prop :=
  ∀ (s : State) (fs fd : DataAddr),
    (∀ q, memRead (advance s 2) fs = .error q → exec (.mvff fs fd) s = .fault q) ∧
    ∀ x, memRead (advance s 2) fs = .ok x →
      (∀ q, resolve s fd = .error q → exec (.mvff fs fd) s = .fault q) ∧
      ∀ e, resolve s fd = .ok e →
        (takesByte (targetOf s.cfg e) = true ∨ targetOf s.cfg e = .reg .status →
          ∃ t, exec (.mvff fs fd) s = .next t ∧ Landed (advance s 2) t e x) ∧
        (targetOf s.cfg e = .reg .pclatl → exec (.mvff fs fd) s = .refused .pclatlPureWrite) ∧
        (∀ q ∈ systemRegs, targetOf s.cfg e = .reg q → exec (.mvff fs fd) s = .refused (.systemRegisterWrite q)) ∧
        (targetOf s.cfg e = .absent → exec (.mvff fs fd) s = .fault (.unimplementedAddress e))

/-- BCF, BSF, BTGF: one bit cleared, set or toggled, the other seven written back as read, no flag. The writes of
STATUS and of PCLATL are the spec's own choices (decisions D12, D13; notes/assumptions/18.md, 20.md). -/
def Obligations.BitWrites : Prop :=
  BitRule .bcf (fun _ => false) ∧ BitRule .bsf (fun _ => true) ∧ BitRule .btgf (fun b => !b)

/-- The bit writes of system registers (`60` R401; `92` D12): BCF of STKFL or STKOV clears both, of STKUN, SKERR,
TO, IdleB or PD that flag; BCF and BSF of the GIE bit write it; every other bit write of a system register is
refused. The spec's own choice (decision D12; notes/assumptions/20.md). -/
def Obligations.SystemBitWrites : Prop :=
  ∀ (s : State) (f : Byte) (b : BitVec 3) (a : Bank) (e : DataAddr), cfgWf s.cfg = true →
    resolve s (effAddr f a s) = .ok e →
    (targetOf s.cfg e = .reg .stkptr →
      ((b.toNat = s.cfg.bitpos.stkfl.val ∨ b.toNat = s.cfg.bitpos.stkov.val) →
        exec (.bcf f b a) s = .next { advance s 1 with stkfl := false, stkov := false }) ∧
      (b.toNat = s.cfg.bitpos.stkun.val → exec (.bcf f b a) s = .next { advance s 1 with stkun := false }) ∧
      (b.toNat ≠ s.cfg.bitpos.stkfl.val → b.toNat ≠ s.cfg.bitpos.stkov.val → b.toNat ≠ s.cfg.bitpos.stkun.val →
        exec (.bcf f b a) s = .refused (.systemRegisterWrite .stkptr))) ∧
    (targetOf s.cfg e = .reg .pstatus →
      (b.toNat = s.cfg.bitpos.skerr.val → exec (.bcf f b a) s = .next { advance s 1 with skerr := false }) ∧
      (b.toNat = s.cfg.bitpos.timeOut.val → exec (.bcf f b a) s = .next { advance s 1 with timeOut := false }) ∧
      (b.toNat = s.cfg.bitpos.idleb.val → exec (.bcf f b a) s = .next { advance s 1 with idleb := false }) ∧
      (b.toNat = s.cfg.bitpos.pd.val → exec (.bcf f b a) s = .next { advance s 1 with pd := false }) ∧
      (b.toNat ≠ s.cfg.bitpos.skerr.val → b.toNat ≠ s.cfg.bitpos.timeOut.val → b.toNat ≠ s.cfg.bitpos.idleb.val →
        b.toNat ≠ s.cfg.bitpos.pd.val → exec (.bcf f b a) s = .refused (.systemRegisterWrite .pstatus))) ∧
    (targetOf s.cfg e = .reg .gieReg →
      (b.toNat = s.cfg.bitpos.gie.val →
        exec (.bcf f b a) s = .next { advance s 1 with gie := false } ∧
          exec (.bsf f b a) s = .next { advance s 1 with gie := true }) ∧
      (b.toNat ≠ s.cfg.bitpos.gie.val →
        exec (.bcf f b a) s = .refused (.systemRegisterWrite .gieReg) ∧
          exec (.bsf f b a) s = .refused (.systemRegisterWrite .gieReg))) ∧
    (∀ q ∈ systemRegs, targetOf s.cfg e = .reg q → exec (.btgf f b a) s = .refused (.systemRegisterWrite q)) ∧
    (∀ q ∈ [Sfr.stkptr, .pstatus, .tosh, .tosl, .sbmset1], targetOf s.cfg e = .reg q →
      exec (.bsf f b a) s = .refused (.systemRegisterWrite q)) ∧
    (∀ q ∈ [Sfr.tosh, .tosl, .sbmset1], targetOf s.cfg e = .reg q →
      exec (.bcf f b a) s = .refused (.systemRegisterWrite q))

/-! ## Skips -/

/-- CPSE, CPSG, CPSL, TFSZ, BTSS, BTSZ: nothing is written but the PC. That the whole next instruction is passed
over and that CPSG and CPSL compare unsigned are the spec's own choices (decisions D8, D9;
notes/assumptions/23.md, 25.md). -/
def Obligations.TestSkips : Prop :=
  TestSkipRule .cpse (fun s x => x = s.w) ∧
  TestSkipRule .cpsg (fun s x => s.w.toNat < x.toNat) ∧
  TestSkipRule .cpsl (fun s x => x.toNat < s.w.toNat) ∧
  TestSkipRule .tfsz (fun _ x => x = 0) ∧
  (∀ b : BitVec 3, TestSkipRule (fun f a => .btss f b a) (fun _ x => x.getLsbD b.toNat = true)) ∧
  (∀ b : BitVec 3, TestSkipRule (fun f a => .btsz f b a) (fun _ x => x.getLsbD b.toNat = false))

/-- DCSUZ, DCSZ, INSUZ, INSZ: the result is stored either way and decides on the skip, which passes over the whole
next instruction (the spec's own choice, decision D8; notes/assumptions/23.md). The writes of STATUS and PCLATL and
the refusal on the system registers are its own choices too (decisions D12, D13; notes/assumptions/18.md, 20.md). The
clause for a store to PCLATL with the skip taken (the instruction completes with an open PC, and is refused when the skip
leaves the program) is neither D13 nor any rule: it is this MODEL's own choice (DESIGN CHOICE, notes/assumptions/18.md). -/
def Obligations.CountSkips : Prop :=
  CountSkipRule .dcsuz 255 (fun r => r ≠ 0) ∧ CountSkipRule .dcsz 255 (fun r => r = 0) ∧
  CountSkipRule .insuz 1 (fun r => r ≠ 0) ∧ CountSkipRule .insz 1 (fun r => r = 0)

/-! ## Literal, move, pointer and multiply instructions -/

/-- ADDL adds k to W, SUBL subtracts W from k; all five flags, nothing else. OV of the addition is a reading the spec
marks as derived (`10` R47; notes/assumptions/27.md). -/
def Obligations.LiteralArithmetic : Prop :=
  ∀ (s : State) (k : Byte),
    (∃ r fl, IsSum s.w k false r fl ∧ exec (.addl k) s = .next { advance s 1 with w := r, status := fl }) ∧
    (∃ r fl, IsDifference k s.w false r fl ∧ exec (.subl k) s = .next { advance s 1 with w := r, status := fl })

/-- ANDL, IORL, XORL: W and N, Z, nothing else. -/
def Obligations.LiteralLogic : Prop :=
  ∀ (s : State) (k : Byte),
    (∃ r fl, IsBitwise (· && ·) s.w k r ∧ SetsNZ s.status r fl ∧
      exec (.andl k) s = .next { advance s 1 with w := r, status := fl }) ∧
    (∃ r fl, IsBitwise (· || ·) s.w k r ∧ SetsNZ s.status r fl ∧
      exec (.iorl k) s = .next { advance s 1 with w := r, status := fl }) ∧
    (∃ r fl, IsBitwise (fun b c => b != c) s.w k r ∧ SetsNZ s.status r fl ∧
      exec (.xorl k) s = .next { advance s 1 with w := r, status := fl })

/-- MVL loads W, LBSR loads BSRCN; no flag, nothing else. -/
def Obligations.LiteralLoads : Prop :=
  ∀ (s : State) (k : Byte) (b : BitVec 3),
    exec (.mvl k) s = .next { advance s 1 with w := k } ∧
    exec (.lbsr b) s = .next { advance s 1 with bsrcn := b }

/-- LDPR splits an 11-bit literal over FSRfH and FSRfL, MVLP a 14-bit one over TBLPTRH and TBLPTRL, zero above it;
the other pointer and all else unchanged. The zeros above are read from one example each (`92` D16). -/
def Obligations.PointerLoads : Prop :=
  (∀ (s : State) (k : DataAddr),
    ∃ h l : Byte, h.toNat = k.toNat / 256 ∧ l.toNat = k.toNat % 256 ∧
      exec (.ldpr k .fsr0) s = .next { advance s 2 with fsr0h := { byte := h, hiOpen := false }, fsr0l := l } ∧
      exec (.ldpr k .fsr1) s = .next { advance s 2 with fsr1h := { byte := h, hiOpen := false }, fsr1l := l }) ∧
  (∀ (s : State) (k : ProgAddr),
    ∃ h l : Byte, h.toNat = k.toNat / 256 ∧ l.toNat = k.toNat % 256 ∧
      exec (.mvlp k) s = .next { advance s 2 with tblptrh := { byte := h, hiOpen := false }, tblptrl := l })

/-- MULL and MULF: PRODH:PRODL take the unsigned product of W and the operand, read before PROD is written; W, the
flags, the cell and all else unchanged. -/
def Obligations.Multiply : Prop :=
  (∀ (s : State) (k : Byte),
    ∃ h l : Byte, h.toNat * 256 + l.toNat = s.w.toNat * k.toNat ∧
      exec (.mull k) s = .next { advance s 1 with prodh := h, prodl := l }) ∧
  (∀ (s : State) (f : Byte) (a : Bank) (x : Byte), memRead (advance s 1) (effAddr f a s) = .ok x →
    ∃ h l : Byte, h.toNat * 256 + l.toNat = s.w.toNat * x.toNat ∧
      exec (.mulf f a) s = .next { advance s 1 with prodh := h, prodl := l }) ∧
  (∀ (s : State) (f : Byte) (a : Bank) (q : Fault), memRead (advance s 1) (effAddr f a s) = .error q →
    exec (.mulf f a) s = .fault q)

/-! ## Calls, returns, jumps -/

/-- CALL and RCALL on a stack that is not full: the return address pushed, STKFL set when the push fills the last
level, the jump made, the shadows taken by CALL with s = 1; nothing else. The base of RCALL's displacement is the
spec's own choice (decision D7; notes/assumptions/24.md). -/
def Obligations.CallsPush : Prop :=
  ∀ s : State, s.sp < s.cfg.stackDepth →
    (∀ n sh, ∃ v, IsReturnAddr s 2 v ∧
      exec (.call n sh) s = .next { pushed (shadowed sh s) v with pc := n, pcPast := false }) ∧
    (∀ n, ∃ v p, IsReturnAddr s 1 v ∧ IsRelTarget s n p ∧
      exec (.rcall n) s = .next { pushed s v with pc := p, pcPast := false })

/-- CALL and RCALL on a full stack: STKOV and SKERR set; with SBMSET1<7> = 1 the chip resets and the jump is not
made; with 0 the jump is made, SP stays, and what the top entry holds is open (`60` R400; the spec's own choice,
decision D5; notes/assumptions/13.md). RCALL's target PC + 1 + n is the spec's own choice too (decision D7; DESIGN
CHOICE, notes/assumptions/24.md). -/
def Obligations.CallOverflow : Prop :=
  ∀ s : State, s.sp = s.cfg.stackDepth →
    (s.sbmset7 = true →
      (∀ n sh, ∃ t, exec (.call n sh) s = .next t ∧ IsReset { s with stkov := true, skerr := true } t) ∧
      (∀ n, ∃ t, exec (.rcall n) s = .next t ∧ IsReset { s with stkov := true, skerr := true } t)) ∧
    (s.sbmset7 = false →
      (∀ n sh, ∃ q, exec (.call n sh) s = .next
        { shadowed sh s with
          stkov := true, skerr := true, stk := s.stk.set (s.cfg.stackDepth - 1) q, pc := n, pcPast := false }) ∧
      (∀ n, ∃ q p, IsRelTarget s n p ∧ exec (.rcall n) s = .next
        { s with
          stkov := true, skerr := true, stk := s.stk.set (s.cfg.stackDepth - 1) q, pc := p, pcPast := false }))

/-- RET, RETI and RETL on a stack that is not empty: the top entry goes to the PC and SP down by one; s = 1
restores W, STATUS and BSRCN; RETI sets GIE; RETL loads W; nothing else. -/
def Obligations.ReturnsPop : Prop :=
  ∀ (s : State) (v : ProgAddr), 1 ≤ s.sp → s.stk[s.sp - 1]? = some v →
    (∀ sh, exec (.ret sh) s = .next { restored sh s with pc := v, pcPast := false, sp := s.sp - 1 }) ∧
    (∀ sh, exec (.reti sh) s = .next
      { restored sh s with pc := v, pcPast := false, sp := s.sp - 1, gie := true }) ∧
    (∀ k, exec (.retl k) s = .next { s with pc := v, pcPast := false, sp := s.sp - 1, w := k })

/-- RET, RETI and RETL on an empty stack: with SBMSET1<7> = 1, STKUN and SKERR set and the chip resets; with 0 the
model faults (`60` R402; the spec's own choice, decision D6; notes/assumptions/14.md). -/
def Obligations.ReturnUnderflow : Prop :=
  ∀ s : State, s.sp = 0 →
    (∀ i, ((∃ sh, i = .ret sh) ∨ (∃ sh, i = .reti sh) ∨ ∃ k, i = .retl k) →
      (s.sbmset7 = true → ∃ t, exec i s = .next t ∧ IsReset { s with stkun := true, skerr := true } t) ∧
      (s.sbmset7 = false → exec i s = .fault .stackUnderflow))

/-- JMP goes to its operand; nothing else changes. -/
def Obligations.JumpGoesToOperand : Prop :=
  ∀ (s : State) (n : ProgAddr), exec (.jmp n) s = .next { s with pc := n, pcPast := false }

/-- RJ goes to `PC + 1 + n` modulo 2^14; nothing else changes. The base of the displacement is the spec's own
choice (decision D7; notes/assumptions/24.md). -/
def Obligations.RelativeJump : Prop :=
  ∀ (s : State) (n : BitVec 11), ∃ p, IsRelTarget s n p ∧ exec (.rj n) s = .next { s with pc := p, pcPast := false }

/-- The eight conditional jumps: one flag decides, nothing is written but the PC. The base of the displacement is
the spec's own choice (decision D7; notes/assumptions/24.md). -/
def Obligations.ConditionalJumps : Prop :=
  JumpRule .jc (fun fl => fl.c = true) ∧ JumpRule .jnc (fun fl => fl.c = false) ∧
  JumpRule .jn (fun fl => fl.n = true) ∧ JumpRule .jnn (fun fl => fl.n = false) ∧
  JumpRule .jo (fun fl => fl.ov = true) ∧ JumpRule .jno (fun fl => fl.ov = false) ∧
  JumpRule .jz (fun fl => fl.z = true) ∧ JumpRule .jnz (fun fl => fl.z = false)

/-- NOP moves the PC to the next word and changes nothing else. -/
def Obligations.NopOnlyMovesPc : Prop :=
  ∀ s : State, exec .nop s = .next { s with pc := s.pc + 1, pcPast := decide (0x3FFF < s.pc.toNat + 1) }

/-- POP lowers SP by one, and TOS shows the entry below; at SP = 0 only the PC moves, and TOS is 0; no flag. -/
def Obligations.PopDropsTop : Prop :=
  ∀ s : State,
    (s.sp = 0 → exec .pop s = .next (advance s 1) ∧ tos (advance s 1) = 0) ∧
    (1 ≤ s.sp → ∃ t, exec .pop s = .next t ∧ t = { advance s 1 with sp := s.sp - 1 } ∧
      (s.sp = 1 → tos t = 0) ∧ (∀ v, 2 ≤ s.sp → s.stk[s.sp - 2]? = some v → tos t = v))

/-- CWDT clears the watchdog counter and TO; IDLE sets IdleB and halts; SLP sets PD and sleeps; nothing else. -/
def Obligations.WatchdogIdleSleep : Prop :=
  ∀ s : State,
    exec .cwdt s = .next { advance s 1 with wdt := 0, timeOut := false } ∧
    exec .idle s = .next { advance s 1 with idleb := true, run := .idle } ∧
    exec .slp s = .next { advance s 1 with pd := true, run := .sleeping }

/-! ## Program memory as data -/

/-- TBLR * and TBLR *+: TBLDH and TBLDL take the two bytes of the word the pointer names, any word where there is
none; *+ then adds one to the pointer, whose high half takes the sum's high byte, no bit of it open, and is open
past 3FFFH; nothing else. -/
def Obligations.TableReads : Prop :=
  ∀ s : State, ∃ w : Word,
    (∀ c : ProgCell, s.tblptrh.byte.toNat * 256 + s.tblptrl.toNat < progSpace →
      s.tblptrh.byte.toNat * 256 + s.tblptrl.toNat < s.cfg.progSize →
      cellRead s.prog (s.tblptrh.byte.toNat * 256 + s.tblptrl.toNat) = some c → w = c.word) ∧
    ∃ h l : Byte, w.toNat = h.toNat * 256 + l.toNat ∧
      exec .tblr s = .next { advance s 1 with tbldh := h, tbldl := l } ∧
      ∃ (ph : UpperReg) (pl : Byte),
        exec .tblrInc s = .next { advance s 1 with tbldh := h, tbldl := l, tblptrh := ph, tblptrl := pl } ∧
        pl.toNat = (s.tblptrl.toNat + 1) % 256 ∧
        (s.tblptrh.byte.toNat * 256 + s.tblptrl.toNat + 1 < progSpace →
          ph.byte.toNat * 256 + pl.toNat = s.tblptrh.byte.toNat * 256 + s.tblptrl.toNat + 1 ∧
            ph.hiOpen = false)

/-! ## Two instructions together -/

/-- A CALL and the RET it calls for: whatever runs between them, if it leaves the stack, its pointer and the
shadows, RET comes back to the instruction after the CALL, and with s = 1 on both W, STATUS and BSRCN are those
of the CALL. -/
def Obligations.CallThenReturn : Prop :=
  ∀ (s u : State) (n : ProgAddr) (sh : Bool), stackWf s → s.sp < s.cfg.stackDepth → s.pc.toNat + 2 < progSpace →
    ∃ t, exec (.call n sh) s = .next t ∧
      (u.stk = t.stk ∧ u.sp = t.sp ∧ u.wregsdw = t.wregsdw ∧ u.stasdw = t.stasdw ∧ u.bsrsdw = t.bsrsdw →
        ∃ v, exec (.ret sh) u = .next v ∧ v.pc.toNat = s.pc.toNat + 2 ∧ v.pcPast = false ∧ v.sp = s.sp ∧
          (sh = true → v.w = s.w ∧ v.status = s.status ∧ v.bsrcn = s.bsrcn) ∧
          (sh = false → v.w = u.w ∧ v.status = u.status ∧ v.bsrcn = u.bsrcn))

/-- Interrupt entry and RETI: if the handler leaves the stack, its pointer and the shadows, RETI comes back to the
interrupted address with GIE = 1 and the stack as deep as before; RETI 1 restores W, STATUS and BSRCN where the
product saves them on entry. The entry is the spec's own choice (decision D17; notes/assumptions/28.md). -/
def Obligations.InterruptThenReturn : Prop :=
  ∀ (s u : State) (sh : Bool), EntersInterrupt s → (inputNow s).reset = false →
    ((inputNow s).wdt = true → s.cfg.wdtEnabled = false) → stackWf s → s.sp < s.cfg.stackDepth → s.pcPast = false →
    ∃ t, step s = .next t ∧ t.gie = false ∧ t.pc = s.cfg.intVector ∧
      (u.stk = t.stk ∧ u.sp = t.sp ∧ u.wregsdw = t.wregsdw ∧ u.stasdw = t.stasdw ∧ u.bsrsdw = t.bsrsdw →
        ∃ v, exec (.reti sh) u = .next v ∧ v.pc = s.pc ∧ v.sp = s.sp ∧ v.gie = true ∧
          (sh = true → s.cfg.intShadowSave = true → v.w = s.w ∧ v.status = s.status ∧ v.bsrcn = s.bsrcn))

/-! ## Data space -/

/-- A byte written at a data address that is no INDFx is read back there, where plain cells, W or an 8-bit
register stand (`20` R87). -/
def Obligations.ReadBackWhatWasWritten : Prop :=
  ∀ (k : WriteKind) (s : State) (a : DataAddr) (v : Byte),
    targetOf s.cfg a ∈ [Target.ram, .wreg, .reg .fsr0l, .reg .fsr1l, .reg .prodh, .reg .prodl, .reg .tblptrl,
      .reg .tbldh, .reg .tbldl] →
    ∃ t, memWrite k s a v = .next t ∧ memRead t a = .ok v ∧
      ∀ b x, b ≠ a → targetOf s.cfg b = .ram → memRead s b = .ok x → memRead t b = .ok x

/-- What a read of each kind of data address answers (`20` R78 cases 2 to 8), the bits no rule names open. `s` has
its PC at `next`. The faults are the spec's own choice (decisions D14, D18; notes/assumptions/6.md, 22.md). -/
def Obligations.DataReadCases : Prop :=
  ∀ (s : State) (a e : DataAddr), cfgWf s.cfg = true → stackWf s → resolve s a = .ok e →
    (e = 0x02C → memRead s a = .ok s.w) ∧
    (targetOf s.cfg e = .ram →
      (∀ x, dmRead s e = some x → memRead s a = .ok x) ∧
      (dmRead s e = none → memRead s a = .error (.unwrittenCell e))) ∧
    (targetOf s.cfg e = .absent → memRead s a = .error (.unimplementedAddress e)) ∧
    ∀ r, targetOf s.cfg e = .reg r → ∃ x, memRead s a = .ok x ∧
      (r = .bsrcn → x.toNat % 8 = s.bsrcn.toNat) ∧
      (r = .fsr0h → x.toNat % 8 = s.fsr0h.byte.toNat % 8 ∧ (s.fsr0h.hiOpen = false → x = s.fsr0h.byte)) ∧
      (r = .fsr0l → x = s.fsr0l) ∧
      (r = .fsr1h → x.toNat % 8 = s.fsr1h.byte.toNat % 8 ∧ (s.fsr1h.hiOpen = false → x = s.fsr1h.byte)) ∧
      (r = .fsr1l → x = s.fsr1l) ∧
      (r = .prodh → x = s.prodh) ∧ (r = .prodl → x = s.prodl) ∧
      (r = .tblptrh → x.toNat % 64 = s.tblptrh.byte.toNat % 64 ∧ (s.tblptrh.hiOpen = false → x = s.tblptrh.byte)) ∧
      (r = .tblptrl → x = s.tblptrl) ∧ (r = .tbldh → x = s.tbldh) ∧ (r = .tbldl → x = s.tbldl) ∧
      (r = .pclatl → x.toNat = s.pc.toNat % 256) ∧
      (r = .tosl → x.toNat = (tos s).toNat % 256) ∧ (r = .tosh → x.toNat = (tos s).toNat / 256) ∧
      (r = .status →
        x.getLsbD s.cfg.bitpos.c = s.status.c ∧ x.getLsbD s.cfg.bitpos.dc = s.status.dc ∧
        x.getLsbD s.cfg.bitpos.n = s.status.n ∧ x.getLsbD s.cfg.bitpos.ov = s.status.ov ∧
        x.getLsbD s.cfg.bitpos.z = s.status.z) ∧
      (r = .stkptr →
        x.toNat % 2 ^ s.cfg.bitpos.ptrWidth = s.sp ∧ x.getLsbD s.cfg.bitpos.stkfl = s.stkfl ∧
        x.getLsbD s.cfg.bitpos.stkov = s.stkov ∧ x.getLsbD s.cfg.bitpos.stkun = s.stkun) ∧
      (r = .pstatus →
        x.getLsbD s.cfg.bitpos.skerr = s.skerr ∧ x.getLsbD s.cfg.bitpos.timeOut = s.timeOut ∧
        x.getLsbD s.cfg.bitpos.idleb = s.idleb ∧ x.getLsbD s.cfg.bitpos.pd = s.pd) ∧
      (r = .sbmset1 → x.getLsbD 7 = s.sbmset7) ∧ (r = .gieReg → x.getLsbD s.cfg.bitpos.gie = s.gie)

/-- The effective address of a file operand: f itself with a = 0, BSRCN above f with a = 1 (`20` R76). -/
def Obligations.EffectiveAddress : Prop :=
  ∀ (f : Byte) (s : State),
    (effAddr f .zero s).toNat = f.toNat ∧ (effAddr f .bsr s).toNat = s.bsrcn.toNat * 256 + f.toNat

/-- An access to INDFx is the access to the address FSRx holds; where that is INDF0 or INDF1 it faults; FSRx
stays (`20` R77). The fault is the spec's own choice (decision D11; notes/assumptions/21.md). -/
def Obligations.IndirectAccess : Prop :=
  ∀ (s : State) (a p : DataAddr),
    ((targetOf s.cfg a = .reg .indf0 ∧ p.toNat = s.fsr0h.byte.toNat % 8 * 256 + s.fsr0l.toNat) ∨
      (targetOf s.cfg a = .reg .indf1 ∧ p.toNat = s.fsr1h.byte.toNat % 8 * 256 + s.fsr1l.toNat)) →
    ((targetOf s.cfg p ≠ .reg .indf0 ∧ targetOf s.cfg p ≠ .reg .indf1) →
      memRead s a = memRead s p ∧ ∀ k v, memWrite k s a v = memWrite k s p v) ∧
    ((targetOf s.cfg p = .reg .indf0 ∨ targetOf s.cfg p = .reg .indf1) →
      memRead s a = .error (.indfSelfReference p) ∧ ∀ k v, memWrite k s a v = .fault (.indfSelfReference p))

end
end

