-- ==== Sys2Proof/Laws/Encoding.lean ====
section
/-! SUPPORT. The laws of placing and picking bits, and what a sound row of an opcode table gives. -/

namespace Sys2Proof

/-- Placing looks at as many bits as there are places. -/
theorem placeBits_mod (ps : List Nat) (v : Nat) : placeBits ps (v % 2 ^ ps.length) = placeBits ps v := by
  induction ps generalizing v with
  | nil => rfl
  | cons p ps ih =>
    simp only [placeBits, List.length_cons]
    have h1 : v % 2 ^ (ps.length + 1) % 2 = v % 2 := by
      rw [Nat.pow_succ, Nat.mul_comm]; exact Nat.mod_mul_right_mod v 2 _
    have h2 : v % 2 ^ (ps.length + 1) / 2 = v / 2 % 2 ^ ps.length := by
      rw [Nat.pow_succ, Nat.mul_comm, Nat.mod_mul_right_div_self]
    rw [h1, h2, ih]

/-- What is picked has as many bits as there are places. -/
theorem pickBits_lt (ps : List Nat) (w : Nat) : pickBits ps w < 2 ^ ps.length := by
  induction ps with
  | nil => simp [pickBits]
  | cons p ps ih =>
    simp only [pickBits, List.length_cons, Nat.pow_succ]
    have := Nat.mod_lt (w / 2 ^ p) (show 0 < 2 by decide)
    omega

/-- Numbers whose bits do not meet add as they join. -/
theorem add_eq_or_of_disjoint {a b : Nat} (h : a &&& b = 0) : a + b = a ||| b := by
  obtain ⟨n, hn⟩ : ∃ n, a + b < 2 ^ n := ⟨a + b, Nat.lt_two_pow_self⟩
  have ha : a % 2 ^ n = a := Nat.mod_eq_of_lt (by omega)
  have hb : b % 2 ^ n = b := Nat.mod_eq_of_lt (by omega)
  have hv : (BitVec.ofNat n a) &&& (BitVec.ofNat n b) = 0#n := by
    apply BitVec.eq_of_toNat_eq
    simp [ha, hb, h]
  have := congrArg BitVec.toNat (BitVec.add_eq_or_of_and_eq_zero _ _ hv)
  simpa [ha, hb, Nat.mod_eq_of_lt hn] using this

/-- A single bit, as it stands in a number. -/
theorem testBit_bit_mul (b p q : Nat) : (b % 2 * 2 ^ p).testBit q = (decide (q = p) && decide (b % 2 = 1)) := by
  rcases Nat.mod_two_eq_zero_or_one b with h | h
  · simp [h]
  · simp [h, Nat.testBit_two_pow, eq_comm]

/-- Placed bits at pairwise different places do not meet, so they stand where they were put. -/
theorem testBit_placeBits {ps : List Nat} (hn : ps.Nodup) (v q : Nat) :
    (placeBits ps v).testBit q = true ↔ ∃ j, ps[j]? = some q ∧ v.testBit j = true := by
  induction ps generalizing v q with
  | nil => simp [placeBits]
  | cons p ps ih =>
    obtain ⟨hp, hm⟩ := List.nodup_cons.mp hn
    have hdis : (v % 2 * 2 ^ p) &&& placeBits ps (v / 2) = 0 := by
      refine Nat.eq_of_testBit_eq fun i => ?_
      rw [Nat.testBit_and, testBit_bit_mul, Nat.zero_testBit]
      by_cases hi : i = p
      · subst hi
        have : (placeBits ps (v / 2)).testBit i = false := by
          refine Bool.eq_false_iff.mpr fun h => ?_
          obtain ⟨j, hj, -⟩ := (ih hm (v / 2) i).mp h
          exact hp (List.mem_of_getElem? hj)
        simp [this]
      · simp [hi]
    simp only [placeBits]
    rw [add_eq_or_of_disjoint hdis, Nat.testBit_or, Bool.or_eq_true, ih hm, testBit_bit_mul]
    constructor
    · rintro (h | ⟨j, hj, hv⟩)
      · simp only [Bool.and_eq_true, decide_eq_true_eq] at h
        exact ⟨0, by simp [h.1], by simp [h.2]⟩
      · exact ⟨j + 1, by simpa using hj, by simpa [Nat.testBit_succ] using hv⟩
    · rintro ⟨j, hj, hv⟩
      cases j with
      | zero => left; simp_all
      | succ j => right; exact ⟨j, by simpa using hj, by simpa [Nat.testBit_succ] using hv⟩

/-- Placed bits stand only at the places. -/
theorem mem_of_testBit_placeBits {ps : List Nat} (hn : ps.Nodup) {v q : Nat}
    (h : (placeBits ps v).testBit q = true) : q ∈ ps := by
  obtain ⟨j, hj, -⟩ := (testBit_placeBits hn v q).mp h
  exact List.mem_of_getElem? hj

/-- Bit j of what is picked is the bit at the j-th place. -/
theorem testBit_pickBits (ps : List Nat) (w j : Nat) :
    (pickBits ps w).testBit j = (match ps[j]? with | some p => w.testBit p | none => false) := by
  induction ps generalizing j with
  | nil => simp [pickBits]
  | cons p ps ih =>
    simp only [pickBits]
    cases j with
    | zero => simp [Nat.testBit, Nat.shiftRight_eq_div_pow, Nat.add_mod]
    | succ j =>
      have : (w / 2 ^ p % 2 + 2 * pickBits ps w) / 2 = pickBits ps w := by omega
      rw [Nat.testBit_succ, this, ih]
      simp

/-- A sound row, in logic. -/
theorem EncRow.wf_iff {r : EncRow} :
    r.wf = true ↔ r.places.length = r.op.format.width ∧ r.places.Nodup ∧
      (∀ p ∈ r.places, p < 16 * r.op.words ∧ r.fixed.testBit p = false) ∧ r.fixed < 2 ^ (16 * r.op.words) := by
  simp only [EncRow.wf, Bool.and_eq_true, beq_iff_eq, decide_eq_true_eq, List.all_eq_true, and_assoc]
  have hb (p : Nat) : r.fixed / 2 ^ p % 2 = 0 ↔ r.fixed.testBit p = false := by
    rw [Nat.testBit_eq_decide_div_mod_eq]
    simp
  simp only [hb]

/-- A sound row's fixed bits and operand bits do not meet. -/
theorem testBit_image {r : EncRow} (h : r.wf = true) (v q : Nat) :
    (r.image v).testBit q = (r.fixed.testBit q || (placeBits r.places v).testBit q) := by
  obtain ⟨-, hn, hp, -⟩ := EncRow.wf_iff.mp h
  have hdis : r.fixed &&& placeBits r.places v = 0 := by
    refine Nat.eq_of_testBit_eq fun i => ?_
    rw [Nat.testBit_and, Nat.zero_testBit]
    by_cases hi : (placeBits r.places v).testBit i = true
    · rw [(hp i (mem_of_testBit_placeBits hn hi)).2]; rfl
    · simp [Bool.eq_false_iff.mpr hi]
  unfold EncRow.image
  rw [add_eq_or_of_disjoint hdis, Nat.testBit_or]

/-- Operands that fit the format come back from their image. -/
theorem pickBits_image {r : EncRow} (h : r.wf = true) {v : Nat} (hv : v < 2 ^ r.op.format.width) :
    pickBits r.places (r.image v) = v := by
  obtain ⟨hl, hn, hp, -⟩ := EncRow.wf_iff.mp h
  refine Nat.eq_of_testBit_eq fun j => ?_
  rw [testBit_pickBits]
  by_cases hj : j < r.places.length
  · have hq : r.places[j]? = some r.places[j] := List.getElem?_eq_getElem hj
    simp only [hq]
    rw [testBit_image h, (hp _ (List.getElem_mem hj)).2, Bool.false_or]
    rw [Bool.eq_iff_iff, testBit_placeBits hn]
    constructor
    · rintro ⟨k, hk, hv⟩
      obtain ⟨hk', he⟩ := List.getElem?_eq_some_iff.mp hk
      rwa [(List.Nodup.getElem_inj_iff hn).mp he] at hv
    · exact fun hv => ⟨j, hq, hv⟩
  · have hq : r.places[j]? = none := List.getElem?_eq_none (Nat.le_of_not_lt hj)
    simp only [hq]
    exact (Nat.testBit_lt_two_pow (lt_of_lt_of_le hv (Nat.pow_le_pow_right (by decide) (hl ▸ Nat.le_of_not_lt hj)))).symm

/-- The image of a sound row fits the form's words. -/
theorem image_lt {r : EncRow} (h : r.wf = true) (v : Nat) : r.image v < 2 ^ (16 * r.op.words) := by
  obtain ⟨-, hn, hp, hf⟩ := EncRow.wf_iff.mp h
  refine Nat.lt_pow_two_of_testBit _ fun i hi => ?_
  rw [testBit_image h, Nat.testBit_lt_two_pow (lt_of_lt_of_le hf (Nat.pow_le_pow_right (by decide) hi)), Bool.false_or]
  exact Bool.eq_false_iff.mpr fun hb =>
    absurd (hp i (mem_of_testBit_placeBits hn hb)).1 (Nat.not_lt.mpr hi)

/-- Every form has one or two words. -/
theorem Op.words_cases (o : Op) : o.words = 1 ∨ o.words = 2 := by cases o <;> decide

end Sys2Proof
end

