-- ==== Sys2Proof/Laws/State.lean ====
section
/-! SUPPORT. One lemma per field per update of the state, each true by definition, so that no proof unfolds a
record update. -/

namespace Sys2Proof.Machine

/-! ## The fields after `advance`: only the PC and its past-the-end mark change. -/

@[simp] theorem advance_w (s : State) (n : Nat) : (advance s n).w = s.w := rfl
@[simp] theorem advance_pc (s : State) (n : Nat) : (advance s n).pc = s.pc + .ofNat 14 n := rfl
@[simp] theorem advance_pcPast (s : State) (n : Nat) : (advance s n).pcPast = decide (progSpace ≤ s.pc.toNat + n) := rfl
@[simp] theorem advance_status (s : State) (n : Nat) : (advance s n).status = s.status := rfl
@[simp] theorem advance_bsrcn (s : State) (n : Nat) : (advance s n).bsrcn = s.bsrcn := rfl
@[simp] theorem advance_fsr0h (s : State) (n : Nat) : (advance s n).fsr0h = s.fsr0h := rfl
@[simp] theorem advance_fsr0l (s : State) (n : Nat) : (advance s n).fsr0l = s.fsr0l := rfl
@[simp] theorem advance_fsr1h (s : State) (n : Nat) : (advance s n).fsr1h = s.fsr1h := rfl
@[simp] theorem advance_fsr1l (s : State) (n : Nat) : (advance s n).fsr1l = s.fsr1l := rfl
@[simp] theorem advance_prodh (s : State) (n : Nat) : (advance s n).prodh = s.prodh := rfl
@[simp] theorem advance_prodl (s : State) (n : Nat) : (advance s n).prodl = s.prodl := rfl
@[simp] theorem advance_tblptrh (s : State) (n : Nat) : (advance s n).tblptrh = s.tblptrh := rfl
@[simp] theorem advance_tblptrl (s : State) (n : Nat) : (advance s n).tblptrl = s.tblptrl := rfl
@[simp] theorem advance_tbldh (s : State) (n : Nat) : (advance s n).tbldh = s.tbldh := rfl
@[simp] theorem advance_tbldl (s : State) (n : Nat) : (advance s n).tbldl = s.tbldl := rfl
@[simp] theorem advance_stk (s : State) (n : Nat) : (advance s n).stk = s.stk := rfl
@[simp] theorem advance_sp (s : State) (n : Nat) : (advance s n).sp = s.sp := rfl
@[simp] theorem advance_stkfl (s : State) (n : Nat) : (advance s n).stkfl = s.stkfl := rfl
@[simp] theorem advance_stkov (s : State) (n : Nat) : (advance s n).stkov = s.stkov := rfl
@[simp] theorem advance_stkun (s : State) (n : Nat) : (advance s n).stkun = s.stkun := rfl
@[simp] theorem advance_skerr (s : State) (n : Nat) : (advance s n).skerr = s.skerr := rfl
@[simp] theorem advance_timeOut (s : State) (n : Nat) : (advance s n).timeOut = s.timeOut := rfl
@[simp] theorem advance_idleb (s : State) (n : Nat) : (advance s n).idleb = s.idleb := rfl
@[simp] theorem advance_pd (s : State) (n : Nat) : (advance s n).pd = s.pd := rfl
@[simp] theorem advance_sbmset7 (s : State) (n : Nat) : (advance s n).sbmset7 = s.sbmset7 := rfl
@[simp] theorem advance_wregsdw (s : State) (n : Nat) : (advance s n).wregsdw = s.wregsdw := rfl
@[simp] theorem advance_stasdw (s : State) (n : Nat) : (advance s n).stasdw = s.stasdw := rfl
@[simp] theorem advance_bsrsdw (s : State) (n : Nat) : (advance s n).bsrsdw = s.bsrsdw := rfl
@[simp] theorem advance_gie (s : State) (n : Nat) : (advance s n).gie = s.gie := rfl
@[simp] theorem advance_wdt (s : State) (n : Nat) : (advance s n).wdt = s.wdt := rfl
@[simp] theorem advance_wdtStuck (s : State) (n : Nat) : (advance s n).wdtStuck = s.wdtStuck := rfl
@[simp] theorem advance_run (s : State) (n : Nat) : (advance s n).run = s.run := rfl
@[simp] theorem advance_mem (s : State) (n : Nat) : (advance s n).mem = s.mem := rfl
@[simp] theorem advance_prog (s : State) (n : Nat) : (advance s n).prog = s.prog := rfl
@[simp] theorem advance_inputs (s : State) (n : Nat) : (advance s n).inputs = s.inputs := rfl
@[simp] theorem advance_tick (s : State) (n : Nat) : (advance s n).tick = s.tick := rfl
@[simp] theorem advance_cfg (s : State) (n : Nat) : (advance s n).cfg = s.cfg := rfl

/-! ## The fields after `setPc`. -/

@[simp] theorem setPc_w (s : State) (t : ProgAddr) : (setPc s t).w = s.w := rfl
@[simp] theorem setPc_pc (s : State) (t : ProgAddr) : (setPc s t).pc = t := rfl
@[simp] theorem setPc_pcPast (s : State) (t : ProgAddr) : (setPc s t).pcPast = false := rfl
@[simp] theorem setPc_status (s : State) (t : ProgAddr) : (setPc s t).status = s.status := rfl
@[simp] theorem setPc_bsrcn (s : State) (t : ProgAddr) : (setPc s t).bsrcn = s.bsrcn := rfl
@[simp] theorem setPc_fsr0h (s : State) (t : ProgAddr) : (setPc s t).fsr0h = s.fsr0h := rfl
@[simp] theorem setPc_fsr0l (s : State) (t : ProgAddr) : (setPc s t).fsr0l = s.fsr0l := rfl
@[simp] theorem setPc_fsr1h (s : State) (t : ProgAddr) : (setPc s t).fsr1h = s.fsr1h := rfl
@[simp] theorem setPc_fsr1l (s : State) (t : ProgAddr) : (setPc s t).fsr1l = s.fsr1l := rfl
@[simp] theorem setPc_prodh (s : State) (t : ProgAddr) : (setPc s t).prodh = s.prodh := rfl
@[simp] theorem setPc_prodl (s : State) (t : ProgAddr) : (setPc s t).prodl = s.prodl := rfl
@[simp] theorem setPc_tblptrh (s : State) (t : ProgAddr) : (setPc s t).tblptrh = s.tblptrh := rfl
@[simp] theorem setPc_tblptrl (s : State) (t : ProgAddr) : (setPc s t).tblptrl = s.tblptrl := rfl
@[simp] theorem setPc_tbldh (s : State) (t : ProgAddr) : (setPc s t).tbldh = s.tbldh := rfl
@[simp] theorem setPc_tbldl (s : State) (t : ProgAddr) : (setPc s t).tbldl = s.tbldl := rfl
@[simp] theorem setPc_stk (s : State) (t : ProgAddr) : (setPc s t).stk = s.stk := rfl
@[simp] theorem setPc_sp (s : State) (t : ProgAddr) : (setPc s t).sp = s.sp := rfl
@[simp] theorem setPc_stkfl (s : State) (t : ProgAddr) : (setPc s t).stkfl = s.stkfl := rfl
@[simp] theorem setPc_stkov (s : State) (t : ProgAddr) : (setPc s t).stkov = s.stkov := rfl
@[simp] theorem setPc_stkun (s : State) (t : ProgAddr) : (setPc s t).stkun = s.stkun := rfl
@[simp] theorem setPc_skerr (s : State) (t : ProgAddr) : (setPc s t).skerr = s.skerr := rfl
@[simp] theorem setPc_timeOut (s : State) (t : ProgAddr) : (setPc s t).timeOut = s.timeOut := rfl
@[simp] theorem setPc_idleb (s : State) (t : ProgAddr) : (setPc s t).idleb = s.idleb := rfl
@[simp] theorem setPc_pd (s : State) (t : ProgAddr) : (setPc s t).pd = s.pd := rfl
@[simp] theorem setPc_sbmset7 (s : State) (t : ProgAddr) : (setPc s t).sbmset7 = s.sbmset7 := rfl
@[simp] theorem setPc_wregsdw (s : State) (t : ProgAddr) : (setPc s t).wregsdw = s.wregsdw := rfl
@[simp] theorem setPc_stasdw (s : State) (t : ProgAddr) : (setPc s t).stasdw = s.stasdw := rfl
@[simp] theorem setPc_bsrsdw (s : State) (t : ProgAddr) : (setPc s t).bsrsdw = s.bsrsdw := rfl
@[simp] theorem setPc_gie (s : State) (t : ProgAddr) : (setPc s t).gie = s.gie := rfl
@[simp] theorem setPc_wdt (s : State) (t : ProgAddr) : (setPc s t).wdt = s.wdt := rfl
@[simp] theorem setPc_wdtStuck (s : State) (t : ProgAddr) : (setPc s t).wdtStuck = s.wdtStuck := rfl
@[simp] theorem setPc_run (s : State) (t : ProgAddr) : (setPc s t).run = s.run := rfl
@[simp] theorem setPc_mem (s : State) (t : ProgAddr) : (setPc s t).mem = s.mem := rfl
@[simp] theorem setPc_prog (s : State) (t : ProgAddr) : (setPc s t).prog = s.prog := rfl
@[simp] theorem setPc_inputs (s : State) (t : ProgAddr) : (setPc s t).inputs = s.inputs := rfl
@[simp] theorem setPc_tick (s : State) (t : ProgAddr) : (setPc s t).tick = s.tick := rfl
@[simp] theorem setPc_cfg (s : State) (t : ProgAddr) : (setPc s t).cfg = s.cfg := rfl

/-! ## The fields after `saveShadows`. -/

@[simp] theorem saveShadows_w (s : State) : (saveShadows s).w = s.w := rfl
@[simp] theorem saveShadows_pc (s : State) : (saveShadows s).pc = s.pc := rfl
@[simp] theorem saveShadows_pcPast (s : State) : (saveShadows s).pcPast = s.pcPast := rfl
@[simp] theorem saveShadows_status (s : State) : (saveShadows s).status = s.status := rfl
@[simp] theorem saveShadows_bsrcn (s : State) : (saveShadows s).bsrcn = s.bsrcn := rfl
@[simp] theorem saveShadows_fsr0h (s : State) : (saveShadows s).fsr0h = s.fsr0h := rfl
@[simp] theorem saveShadows_fsr0l (s : State) : (saveShadows s).fsr0l = s.fsr0l := rfl
@[simp] theorem saveShadows_fsr1h (s : State) : (saveShadows s).fsr1h = s.fsr1h := rfl
@[simp] theorem saveShadows_fsr1l (s : State) : (saveShadows s).fsr1l = s.fsr1l := rfl
@[simp] theorem saveShadows_prodh (s : State) : (saveShadows s).prodh = s.prodh := rfl
@[simp] theorem saveShadows_prodl (s : State) : (saveShadows s).prodl = s.prodl := rfl
@[simp] theorem saveShadows_tblptrh (s : State) : (saveShadows s).tblptrh = s.tblptrh := rfl
@[simp] theorem saveShadows_tblptrl (s : State) : (saveShadows s).tblptrl = s.tblptrl := rfl
@[simp] theorem saveShadows_tbldh (s : State) : (saveShadows s).tbldh = s.tbldh := rfl
@[simp] theorem saveShadows_tbldl (s : State) : (saveShadows s).tbldl = s.tbldl := rfl
@[simp] theorem saveShadows_stk (s : State) : (saveShadows s).stk = s.stk := rfl
@[simp] theorem saveShadows_sp (s : State) : (saveShadows s).sp = s.sp := rfl
@[simp] theorem saveShadows_stkfl (s : State) : (saveShadows s).stkfl = s.stkfl := rfl
@[simp] theorem saveShadows_stkov (s : State) : (saveShadows s).stkov = s.stkov := rfl
@[simp] theorem saveShadows_stkun (s : State) : (saveShadows s).stkun = s.stkun := rfl
@[simp] theorem saveShadows_skerr (s : State) : (saveShadows s).skerr = s.skerr := rfl
@[simp] theorem saveShadows_timeOut (s : State) : (saveShadows s).timeOut = s.timeOut := rfl
@[simp] theorem saveShadows_idleb (s : State) : (saveShadows s).idleb = s.idleb := rfl
@[simp] theorem saveShadows_pd (s : State) : (saveShadows s).pd = s.pd := rfl
@[simp] theorem saveShadows_sbmset7 (s : State) : (saveShadows s).sbmset7 = s.sbmset7 := rfl
@[simp] theorem saveShadows_wregsdw (s : State) : (saveShadows s).wregsdw = s.w := rfl
@[simp] theorem saveShadows_stasdw (s : State) : (saveShadows s).stasdw = s.status := rfl
@[simp] theorem saveShadows_bsrsdw (s : State) : (saveShadows s).bsrsdw = s.bsrcn := rfl
@[simp] theorem saveShadows_gie (s : State) : (saveShadows s).gie = s.gie := rfl
@[simp] theorem saveShadows_wdt (s : State) : (saveShadows s).wdt = s.wdt := rfl
@[simp] theorem saveShadows_wdtStuck (s : State) : (saveShadows s).wdtStuck = s.wdtStuck := rfl
@[simp] theorem saveShadows_run (s : State) : (saveShadows s).run = s.run := rfl
@[simp] theorem saveShadows_mem (s : State) : (saveShadows s).mem = s.mem := rfl
@[simp] theorem saveShadows_prog (s : State) : (saveShadows s).prog = s.prog := rfl
@[simp] theorem saveShadows_inputs (s : State) : (saveShadows s).inputs = s.inputs := rfl
@[simp] theorem saveShadows_tick (s : State) : (saveShadows s).tick = s.tick := rfl
@[simp] theorem saveShadows_cfg (s : State) : (saveShadows s).cfg = s.cfg := rfl

/-! ## The fields after `restoreShadows`. -/

@[simp] theorem restoreShadows_w (s : State) : (restoreShadows s).w = s.wregsdw := rfl
@[simp] theorem restoreShadows_pc (s : State) : (restoreShadows s).pc = s.pc := rfl
@[simp] theorem restoreShadows_pcPast (s : State) : (restoreShadows s).pcPast = s.pcPast := rfl
@[simp] theorem restoreShadows_status (s : State) : (restoreShadows s).status = s.stasdw := rfl
@[simp] theorem restoreShadows_bsrcn (s : State) : (restoreShadows s).bsrcn = s.bsrsdw := rfl
@[simp] theorem restoreShadows_fsr0h (s : State) : (restoreShadows s).fsr0h = s.fsr0h := rfl
@[simp] theorem restoreShadows_fsr0l (s : State) : (restoreShadows s).fsr0l = s.fsr0l := rfl
@[simp] theorem restoreShadows_fsr1h (s : State) : (restoreShadows s).fsr1h = s.fsr1h := rfl
@[simp] theorem restoreShadows_fsr1l (s : State) : (restoreShadows s).fsr1l = s.fsr1l := rfl
@[simp] theorem restoreShadows_prodh (s : State) : (restoreShadows s).prodh = s.prodh := rfl
@[simp] theorem restoreShadows_prodl (s : State) : (restoreShadows s).prodl = s.prodl := rfl
@[simp] theorem restoreShadows_tblptrh (s : State) : (restoreShadows s).tblptrh = s.tblptrh := rfl
@[simp] theorem restoreShadows_tblptrl (s : State) : (restoreShadows s).tblptrl = s.tblptrl := rfl
@[simp] theorem restoreShadows_tbldh (s : State) : (restoreShadows s).tbldh = s.tbldh := rfl
@[simp] theorem restoreShadows_tbldl (s : State) : (restoreShadows s).tbldl = s.tbldl := rfl
@[simp] theorem restoreShadows_stk (s : State) : (restoreShadows s).stk = s.stk := rfl
@[simp] theorem restoreShadows_sp (s : State) : (restoreShadows s).sp = s.sp := rfl
@[simp] theorem restoreShadows_stkfl (s : State) : (restoreShadows s).stkfl = s.stkfl := rfl
@[simp] theorem restoreShadows_stkov (s : State) : (restoreShadows s).stkov = s.stkov := rfl
@[simp] theorem restoreShadows_stkun (s : State) : (restoreShadows s).stkun = s.stkun := rfl
@[simp] theorem restoreShadows_skerr (s : State) : (restoreShadows s).skerr = s.skerr := rfl
@[simp] theorem restoreShadows_timeOut (s : State) : (restoreShadows s).timeOut = s.timeOut := rfl
@[simp] theorem restoreShadows_idleb (s : State) : (restoreShadows s).idleb = s.idleb := rfl
@[simp] theorem restoreShadows_pd (s : State) : (restoreShadows s).pd = s.pd := rfl
@[simp] theorem restoreShadows_sbmset7 (s : State) : (restoreShadows s).sbmset7 = s.sbmset7 := rfl
@[simp] theorem restoreShadows_wregsdw (s : State) : (restoreShadows s).wregsdw = s.wregsdw := rfl
@[simp] theorem restoreShadows_stasdw (s : State) : (restoreShadows s).stasdw = s.stasdw := rfl
@[simp] theorem restoreShadows_bsrsdw (s : State) : (restoreShadows s).bsrsdw = s.bsrsdw := rfl
@[simp] theorem restoreShadows_gie (s : State) : (restoreShadows s).gie = s.gie := rfl
@[simp] theorem restoreShadows_wdt (s : State) : (restoreShadows s).wdt = s.wdt := rfl
@[simp] theorem restoreShadows_wdtStuck (s : State) : (restoreShadows s).wdtStuck = s.wdtStuck := rfl
@[simp] theorem restoreShadows_run (s : State) : (restoreShadows s).run = s.run := rfl
@[simp] theorem restoreShadows_mem (s : State) : (restoreShadows s).mem = s.mem := rfl
@[simp] theorem restoreShadows_prog (s : State) : (restoreShadows s).prog = s.prog := rfl
@[simp] theorem restoreShadows_inputs (s : State) : (restoreShadows s).inputs = s.inputs := rfl
@[simp] theorem restoreShadows_tick (s : State) : (restoreShadows s).tick = s.tick := rfl
@[simp] theorem restoreShadows_cfg (s : State) : (restoreShadows s).cfg = s.cfg := rfl

/-! ## The fields after `dmWrite`. -/

@[simp] theorem dmWrite_w (s : State) (a : DataAddr) (v : Byte) : (dmWrite s a v).w = s.w := rfl
@[simp] theorem dmWrite_pc (s : State) (a : DataAddr) (v : Byte) : (dmWrite s a v).pc = s.pc := rfl
@[simp] theorem dmWrite_pcPast (s : State) (a : DataAddr) (v : Byte) : (dmWrite s a v).pcPast = s.pcPast := rfl
@[simp] theorem dmWrite_status (s : State) (a : DataAddr) (v : Byte) : (dmWrite s a v).status = s.status := rfl
@[simp] theorem dmWrite_bsrcn (s : State) (a : DataAddr) (v : Byte) : (dmWrite s a v).bsrcn = s.bsrcn := rfl
@[simp] theorem dmWrite_fsr0h (s : State) (a : DataAddr) (v : Byte) : (dmWrite s a v).fsr0h = s.fsr0h := rfl
@[simp] theorem dmWrite_fsr0l (s : State) (a : DataAddr) (v : Byte) : (dmWrite s a v).fsr0l = s.fsr0l := rfl
@[simp] theorem dmWrite_fsr1h (s : State) (a : DataAddr) (v : Byte) : (dmWrite s a v).fsr1h = s.fsr1h := rfl
@[simp] theorem dmWrite_fsr1l (s : State) (a : DataAddr) (v : Byte) : (dmWrite s a v).fsr1l = s.fsr1l := rfl
@[simp] theorem dmWrite_prodh (s : State) (a : DataAddr) (v : Byte) : (dmWrite s a v).prodh = s.prodh := rfl
@[simp] theorem dmWrite_prodl (s : State) (a : DataAddr) (v : Byte) : (dmWrite s a v).prodl = s.prodl := rfl
@[simp] theorem dmWrite_tblptrh (s : State) (a : DataAddr) (v : Byte) : (dmWrite s a v).tblptrh = s.tblptrh := rfl
@[simp] theorem dmWrite_tblptrl (s : State) (a : DataAddr) (v : Byte) : (dmWrite s a v).tblptrl = s.tblptrl := rfl
@[simp] theorem dmWrite_tbldh (s : State) (a : DataAddr) (v : Byte) : (dmWrite s a v).tbldh = s.tbldh := rfl
@[simp] theorem dmWrite_tbldl (s : State) (a : DataAddr) (v : Byte) : (dmWrite s a v).tbldl = s.tbldl := rfl
@[simp] theorem dmWrite_stk (s : State) (a : DataAddr) (v : Byte) : (dmWrite s a v).stk = s.stk := rfl
@[simp] theorem dmWrite_sp (s : State) (a : DataAddr) (v : Byte) : (dmWrite s a v).sp = s.sp := rfl
@[simp] theorem dmWrite_stkfl (s : State) (a : DataAddr) (v : Byte) : (dmWrite s a v).stkfl = s.stkfl := rfl
@[simp] theorem dmWrite_stkov (s : State) (a : DataAddr) (v : Byte) : (dmWrite s a v).stkov = s.stkov := rfl
@[simp] theorem dmWrite_stkun (s : State) (a : DataAddr) (v : Byte) : (dmWrite s a v).stkun = s.stkun := rfl
@[simp] theorem dmWrite_skerr (s : State) (a : DataAddr) (v : Byte) : (dmWrite s a v).skerr = s.skerr := rfl
@[simp] theorem dmWrite_timeOut (s : State) (a : DataAddr) (v : Byte) : (dmWrite s a v).timeOut = s.timeOut := rfl
@[simp] theorem dmWrite_idleb (s : State) (a : DataAddr) (v : Byte) : (dmWrite s a v).idleb = s.idleb := rfl
@[simp] theorem dmWrite_pd (s : State) (a : DataAddr) (v : Byte) : (dmWrite s a v).pd = s.pd := rfl
@[simp] theorem dmWrite_sbmset7 (s : State) (a : DataAddr) (v : Byte) : (dmWrite s a v).sbmset7 = s.sbmset7 := rfl
@[simp] theorem dmWrite_wregsdw (s : State) (a : DataAddr) (v : Byte) : (dmWrite s a v).wregsdw = s.wregsdw := rfl
@[simp] theorem dmWrite_stasdw (s : State) (a : DataAddr) (v : Byte) : (dmWrite s a v).stasdw = s.stasdw := rfl
@[simp] theorem dmWrite_bsrsdw (s : State) (a : DataAddr) (v : Byte) : (dmWrite s a v).bsrsdw = s.bsrsdw := rfl
@[simp] theorem dmWrite_gie (s : State) (a : DataAddr) (v : Byte) : (dmWrite s a v).gie = s.gie := rfl
@[simp] theorem dmWrite_wdt (s : State) (a : DataAddr) (v : Byte) : (dmWrite s a v).wdt = s.wdt := rfl
@[simp] theorem dmWrite_wdtStuck (s : State) (a : DataAddr) (v : Byte) : (dmWrite s a v).wdtStuck = s.wdtStuck := rfl
@[simp] theorem dmWrite_run (s : State) (a : DataAddr) (v : Byte) : (dmWrite s a v).run = s.run := rfl
@[simp] theorem dmWrite_mem (s : State) (a : DataAddr) (v : Byte) : (dmWrite s a v).mem = cellWrite s.mem a.toNat v := rfl
@[simp] theorem dmWrite_prog (s : State) (a : DataAddr) (v : Byte) : (dmWrite s a v).prog = s.prog := rfl
@[simp] theorem dmWrite_inputs (s : State) (a : DataAddr) (v : Byte) : (dmWrite s a v).inputs = s.inputs := rfl
@[simp] theorem dmWrite_tick (s : State) (a : DataAddr) (v : Byte) : (dmWrite s a v).tick = s.tick := rfl
@[simp] theorem dmWrite_cfg (s : State) (a : DataAddr) (v : Byte) : (dmWrite s a v).cfg = s.cfg := rfl

/-! ## The fields after `beginStep`. -/

@[simp] theorem beginStep_w (s : State) : (beginStep s).w = s.w := rfl
@[simp] theorem beginStep_pc (s : State) : (beginStep s).pc = s.pc := rfl
@[simp] theorem beginStep_pcPast (s : State) : (beginStep s).pcPast = s.pcPast := rfl
@[simp] theorem beginStep_status (s : State) : (beginStep s).status = s.status := rfl
@[simp] theorem beginStep_bsrcn (s : State) : (beginStep s).bsrcn = s.bsrcn := rfl
@[simp] theorem beginStep_fsr0h (s : State) : (beginStep s).fsr0h = s.fsr0h := rfl
@[simp] theorem beginStep_fsr0l (s : State) : (beginStep s).fsr0l = s.fsr0l := rfl
@[simp] theorem beginStep_fsr1h (s : State) : (beginStep s).fsr1h = s.fsr1h := rfl
@[simp] theorem beginStep_fsr1l (s : State) : (beginStep s).fsr1l = s.fsr1l := rfl
@[simp] theorem beginStep_prodh (s : State) : (beginStep s).prodh = s.prodh := rfl
@[simp] theorem beginStep_prodl (s : State) : (beginStep s).prodl = s.prodl := rfl
@[simp] theorem beginStep_tblptrh (s : State) : (beginStep s).tblptrh = s.tblptrh := rfl
@[simp] theorem beginStep_tblptrl (s : State) : (beginStep s).tblptrl = s.tblptrl := rfl
@[simp] theorem beginStep_tbldh (s : State) : (beginStep s).tbldh = s.tbldh := rfl
@[simp] theorem beginStep_tbldl (s : State) : (beginStep s).tbldl = s.tbldl := rfl
@[simp] theorem beginStep_stk (s : State) : (beginStep s).stk = s.stk := rfl
@[simp] theorem beginStep_sp (s : State) : (beginStep s).sp = s.sp := rfl
@[simp] theorem beginStep_stkfl (s : State) : (beginStep s).stkfl = s.stkfl := rfl
@[simp] theorem beginStep_stkov (s : State) : (beginStep s).stkov = s.stkov := rfl
@[simp] theorem beginStep_stkun (s : State) : (beginStep s).stkun = s.stkun := rfl
@[simp] theorem beginStep_skerr (s : State) : (beginStep s).skerr = s.skerr := rfl
@[simp] theorem beginStep_timeOut (s : State) : (beginStep s).timeOut = s.timeOut := rfl
@[simp] theorem beginStep_idleb (s : State) : (beginStep s).idleb = s.idleb := rfl
@[simp] theorem beginStep_pd (s : State) : (beginStep s).pd = s.pd := rfl
@[simp] theorem beginStep_sbmset7 (s : State) : (beginStep s).sbmset7 = s.sbmset7 := rfl
@[simp] theorem beginStep_wregsdw (s : State) : (beginStep s).wregsdw = s.wregsdw := rfl
@[simp] theorem beginStep_stasdw (s : State) : (beginStep s).stasdw = s.stasdw := rfl
@[simp] theorem beginStep_bsrsdw (s : State) : (beginStep s).bsrsdw = s.bsrsdw := rfl
@[simp] theorem beginStep_gie (s : State) : (beginStep s).gie = s.gie := rfl
@[simp] theorem beginStep_wdt (s : State) : (beginStep s).wdt = Config.openCount (s.tick + 1) .watchdog := rfl
@[simp] theorem beginStep_wdtStuck (s : State) : (beginStep s).wdtStuck = s.wdtStuck := rfl
@[simp] theorem beginStep_run (s : State) : (beginStep s).run = s.run := rfl
@[simp] theorem beginStep_mem (s : State) : (beginStep s).mem = s.mem := rfl
@[simp] theorem beginStep_prog (s : State) : (beginStep s).prog = s.prog := rfl
@[simp] theorem beginStep_inputs (s : State) : (beginStep s).inputs = s.inputs.tail := rfl
@[simp] theorem beginStep_tick (s : State) : (beginStep s).tick = s.tick + 1 := rfl
@[simp] theorem beginStep_cfg (s : State) : (beginStep s).cfg = s.cfg := rfl

/-! ## The fields after `setProduct`. -/

@[simp] theorem setProduct_w (x : Byte) (s : State) : (setProduct x s).w = s.w := rfl
@[simp] theorem setProduct_pc (x : Byte) (s : State) : (setProduct x s).pc = s.pc := rfl
@[simp] theorem setProduct_pcPast (x : Byte) (s : State) : (setProduct x s).pcPast = s.pcPast := rfl
@[simp] theorem setProduct_status (x : Byte) (s : State) : (setProduct x s).status = s.status := rfl
@[simp] theorem setProduct_bsrcn (x : Byte) (s : State) : (setProduct x s).bsrcn = s.bsrcn := rfl
@[simp] theorem setProduct_fsr0h (x : Byte) (s : State) : (setProduct x s).fsr0h = s.fsr0h := rfl
@[simp] theorem setProduct_fsr0l (x : Byte) (s : State) : (setProduct x s).fsr0l = s.fsr0l := rfl
@[simp] theorem setProduct_fsr1h (x : Byte) (s : State) : (setProduct x s).fsr1h = s.fsr1h := rfl
@[simp] theorem setProduct_fsr1l (x : Byte) (s : State) : (setProduct x s).fsr1l = s.fsr1l := rfl
@[simp] theorem setProduct_prodh (x : Byte) (s : State) : (setProduct x s).prodh = (product s.w x).extractLsb' 8 8 := rfl
@[simp] theorem setProduct_prodl (x : Byte) (s : State) : (setProduct x s).prodl = (product s.w x).setWidth 8 := rfl
@[simp] theorem setProduct_tblptrh (x : Byte) (s : State) : (setProduct x s).tblptrh = s.tblptrh := rfl
@[simp] theorem setProduct_tblptrl (x : Byte) (s : State) : (setProduct x s).tblptrl = s.tblptrl := rfl
@[simp] theorem setProduct_tbldh (x : Byte) (s : State) : (setProduct x s).tbldh = s.tbldh := rfl
@[simp] theorem setProduct_tbldl (x : Byte) (s : State) : (setProduct x s).tbldl = s.tbldl := rfl
@[simp] theorem setProduct_stk (x : Byte) (s : State) : (setProduct x s).stk = s.stk := rfl
@[simp] theorem setProduct_sp (x : Byte) (s : State) : (setProduct x s).sp = s.sp := rfl
@[simp] theorem setProduct_stkfl (x : Byte) (s : State) : (setProduct x s).stkfl = s.stkfl := rfl
@[simp] theorem setProduct_stkov (x : Byte) (s : State) : (setProduct x s).stkov = s.stkov := rfl
@[simp] theorem setProduct_stkun (x : Byte) (s : State) : (setProduct x s).stkun = s.stkun := rfl
@[simp] theorem setProduct_skerr (x : Byte) (s : State) : (setProduct x s).skerr = s.skerr := rfl
@[simp] theorem setProduct_timeOut (x : Byte) (s : State) : (setProduct x s).timeOut = s.timeOut := rfl
@[simp] theorem setProduct_idleb (x : Byte) (s : State) : (setProduct x s).idleb = s.idleb := rfl
@[simp] theorem setProduct_pd (x : Byte) (s : State) : (setProduct x s).pd = s.pd := rfl
@[simp] theorem setProduct_sbmset7 (x : Byte) (s : State) : (setProduct x s).sbmset7 = s.sbmset7 := rfl
@[simp] theorem setProduct_wregsdw (x : Byte) (s : State) : (setProduct x s).wregsdw = s.wregsdw := rfl
@[simp] theorem setProduct_stasdw (x : Byte) (s : State) : (setProduct x s).stasdw = s.stasdw := rfl
@[simp] theorem setProduct_bsrsdw (x : Byte) (s : State) : (setProduct x s).bsrsdw = s.bsrsdw := rfl
@[simp] theorem setProduct_gie (x : Byte) (s : State) : (setProduct x s).gie = s.gie := rfl
@[simp] theorem setProduct_wdt (x : Byte) (s : State) : (setProduct x s).wdt = s.wdt := rfl
@[simp] theorem setProduct_wdtStuck (x : Byte) (s : State) : (setProduct x s).wdtStuck = s.wdtStuck := rfl
@[simp] theorem setProduct_run (x : Byte) (s : State) : (setProduct x s).run = s.run := rfl
@[simp] theorem setProduct_mem (x : Byte) (s : State) : (setProduct x s).mem = s.mem := rfl
@[simp] theorem setProduct_prog (x : Byte) (s : State) : (setProduct x s).prog = s.prog := rfl
@[simp] theorem setProduct_inputs (x : Byte) (s : State) : (setProduct x s).inputs = s.inputs := rfl
@[simp] theorem setProduct_tick (x : Byte) (s : State) : (setProduct x s).tick = s.tick := rfl
@[simp] theorem setProduct_cfg (x : Byte) (s : State) : (setProduct x s).cfg = s.cfg := rfl

/-! ## The fields after `loadTable`. -/

@[simp] theorem loadTable_w (s : State) : (loadTable s).w = s.w := rfl
@[simp] theorem loadTable_pc (s : State) : (loadTable s).pc = s.pc := rfl
@[simp] theorem loadTable_pcPast (s : State) : (loadTable s).pcPast = s.pcPast := rfl
@[simp] theorem loadTable_status (s : State) : (loadTable s).status = s.status := rfl
@[simp] theorem loadTable_bsrcn (s : State) : (loadTable s).bsrcn = s.bsrcn := rfl
@[simp] theorem loadTable_fsr0h (s : State) : (loadTable s).fsr0h = s.fsr0h := rfl
@[simp] theorem loadTable_fsr0l (s : State) : (loadTable s).fsr0l = s.fsr0l := rfl
@[simp] theorem loadTable_fsr1h (s : State) : (loadTable s).fsr1h = s.fsr1h := rfl
@[simp] theorem loadTable_fsr1l (s : State) : (loadTable s).fsr1l = s.fsr1l := rfl
@[simp] theorem loadTable_prodh (s : State) : (loadTable s).prodh = s.prodh := rfl
@[simp] theorem loadTable_prodl (s : State) : (loadTable s).prodl = s.prodl := rfl
@[simp] theorem loadTable_tblptrh (s : State) : (loadTable s).tblptrh = s.tblptrh := rfl
@[simp] theorem loadTable_tblptrl (s : State) : (loadTable s).tblptrl = s.tblptrl := rfl
@[simp] theorem loadTable_tbldh (s : State) : (loadTable s).tbldh = (tableWord s).extractLsb' 8 8 := rfl
@[simp] theorem loadTable_tbldl (s : State) : (loadTable s).tbldl = (tableWord s).setWidth 8 := rfl
@[simp] theorem loadTable_stk (s : State) : (loadTable s).stk = s.stk := rfl
@[simp] theorem loadTable_sp (s : State) : (loadTable s).sp = s.sp := rfl
@[simp] theorem loadTable_stkfl (s : State) : (loadTable s).stkfl = s.stkfl := rfl
@[simp] theorem loadTable_stkov (s : State) : (loadTable s).stkov = s.stkov := rfl
@[simp] theorem loadTable_stkun (s : State) : (loadTable s).stkun = s.stkun := rfl
@[simp] theorem loadTable_skerr (s : State) : (loadTable s).skerr = s.skerr := rfl
@[simp] theorem loadTable_timeOut (s : State) : (loadTable s).timeOut = s.timeOut := rfl
@[simp] theorem loadTable_idleb (s : State) : (loadTable s).idleb = s.idleb := rfl
@[simp] theorem loadTable_pd (s : State) : (loadTable s).pd = s.pd := rfl
@[simp] theorem loadTable_sbmset7 (s : State) : (loadTable s).sbmset7 = s.sbmset7 := rfl
@[simp] theorem loadTable_wregsdw (s : State) : (loadTable s).wregsdw = s.wregsdw := rfl
@[simp] theorem loadTable_stasdw (s : State) : (loadTable s).stasdw = s.stasdw := rfl
@[simp] theorem loadTable_bsrsdw (s : State) : (loadTable s).bsrsdw = s.bsrsdw := rfl
@[simp] theorem loadTable_gie (s : State) : (loadTable s).gie = s.gie := rfl
@[simp] theorem loadTable_wdt (s : State) : (loadTable s).wdt = s.wdt := rfl
@[simp] theorem loadTable_wdtStuck (s : State) : (loadTable s).wdtStuck = s.wdtStuck := rfl
@[simp] theorem loadTable_run (s : State) : (loadTable s).run = s.run := rfl
@[simp] theorem loadTable_mem (s : State) : (loadTable s).mem = s.mem := rfl
@[simp] theorem loadTable_prog (s : State) : (loadTable s).prog = s.prog := rfl
@[simp] theorem loadTable_inputs (s : State) : (loadTable s).inputs = s.inputs := rfl
@[simp] theorem loadTable_tick (s : State) : (loadTable s).tick = s.tick := rfl
@[simp] theorem loadTable_cfg (s : State) : (loadTable s).cfg = s.cfg := rfl

/-! ## The fields after `watchdogTimeOut`. -/

@[simp] theorem watchdogTimeOut_w (s : State) : (watchdogTimeOut s).w = s.w := rfl
@[simp] theorem watchdogTimeOut_pc (s : State) : (watchdogTimeOut s).pc = s.pc := rfl
@[simp] theorem watchdogTimeOut_pcPast (s : State) : (watchdogTimeOut s).pcPast = s.pcPast := rfl
@[simp] theorem watchdogTimeOut_status (s : State) : (watchdogTimeOut s).status = s.status := rfl
@[simp] theorem watchdogTimeOut_bsrcn (s : State) : (watchdogTimeOut s).bsrcn = s.bsrcn := rfl
@[simp] theorem watchdogTimeOut_fsr0h (s : State) : (watchdogTimeOut s).fsr0h = s.fsr0h := rfl
@[simp] theorem watchdogTimeOut_fsr0l (s : State) : (watchdogTimeOut s).fsr0l = s.fsr0l := rfl
@[simp] theorem watchdogTimeOut_fsr1h (s : State) : (watchdogTimeOut s).fsr1h = s.fsr1h := rfl
@[simp] theorem watchdogTimeOut_fsr1l (s : State) : (watchdogTimeOut s).fsr1l = s.fsr1l := rfl
@[simp] theorem watchdogTimeOut_prodh (s : State) : (watchdogTimeOut s).prodh = s.prodh := rfl
@[simp] theorem watchdogTimeOut_prodl (s : State) : (watchdogTimeOut s).prodl = s.prodl := rfl
@[simp] theorem watchdogTimeOut_tblptrh (s : State) : (watchdogTimeOut s).tblptrh = s.tblptrh := rfl
@[simp] theorem watchdogTimeOut_tblptrl (s : State) : (watchdogTimeOut s).tblptrl = s.tblptrl := rfl
@[simp] theorem watchdogTimeOut_tbldh (s : State) : (watchdogTimeOut s).tbldh = s.tbldh := rfl
@[simp] theorem watchdogTimeOut_tbldl (s : State) : (watchdogTimeOut s).tbldl = s.tbldl := rfl
@[simp] theorem watchdogTimeOut_stk (s : State) : (watchdogTimeOut s).stk = s.stk := rfl
@[simp] theorem watchdogTimeOut_sp (s : State) : (watchdogTimeOut s).sp = s.sp := rfl
@[simp] theorem watchdogTimeOut_stkfl (s : State) : (watchdogTimeOut s).stkfl = s.stkfl := rfl
@[simp] theorem watchdogTimeOut_stkov (s : State) : (watchdogTimeOut s).stkov = s.stkov := rfl
@[simp] theorem watchdogTimeOut_stkun (s : State) : (watchdogTimeOut s).stkun = s.stkun := rfl
@[simp] theorem watchdogTimeOut_skerr (s : State) : (watchdogTimeOut s).skerr = s.skerr := rfl
@[simp] theorem watchdogTimeOut_timeOut (s : State) : (watchdogTimeOut s).timeOut = true := rfl
@[simp] theorem watchdogTimeOut_idleb (s : State) : (watchdogTimeOut s).idleb = s.idleb := rfl
@[simp] theorem watchdogTimeOut_pd (s : State) : (watchdogTimeOut s).pd = s.pd := rfl
@[simp] theorem watchdogTimeOut_sbmset7 (s : State) : (watchdogTimeOut s).sbmset7 = s.sbmset7 := rfl
@[simp] theorem watchdogTimeOut_wregsdw (s : State) : (watchdogTimeOut s).wregsdw = s.wregsdw := rfl
@[simp] theorem watchdogTimeOut_stasdw (s : State) : (watchdogTimeOut s).stasdw = s.stasdw := rfl
@[simp] theorem watchdogTimeOut_bsrsdw (s : State) : (watchdogTimeOut s).bsrsdw = s.bsrsdw := rfl
@[simp] theorem watchdogTimeOut_gie (s : State) : (watchdogTimeOut s).gie = s.gie := rfl
@[simp] theorem watchdogTimeOut_wdt (s : State) : (watchdogTimeOut s).wdt = s.wdt := rfl
@[simp] theorem watchdogTimeOut_wdtStuck (s : State) : (watchdogTimeOut s).wdtStuck = true := rfl
@[simp] theorem watchdogTimeOut_run (s : State) : (watchdogTimeOut s).run = s.run := rfl
@[simp] theorem watchdogTimeOut_mem (s : State) : (watchdogTimeOut s).mem = s.mem := rfl
@[simp] theorem watchdogTimeOut_prog (s : State) : (watchdogTimeOut s).prog = s.prog := rfl
@[simp] theorem watchdogTimeOut_inputs (s : State) : (watchdogTimeOut s).inputs = s.inputs := rfl
@[simp] theorem watchdogTimeOut_tick (s : State) : (watchdogTimeOut s).tick = s.tick := rfl
@[simp] theorem watchdogTimeOut_cfg (s : State) : (watchdogTimeOut s).cfg = s.cfg := rfl

/-! ## The fields after a chip reset that the spec gives (`10` R46, `70` R450) -/

@[simp] theorem chipReset_pc (s : State) : (chipReset s).pc = 0 := rfl
@[simp] theorem chipReset_pcPast (s : State) : (chipReset s).pcPast = false := rfl
@[simp] theorem chipReset_sp (s : State) : (chipReset s).sp = 0 := rfl
@[simp] theorem chipReset_gie (s : State) : (chipReset s).gie = false := rfl
@[simp] theorem chipReset_run (s : State) : (chipReset s).run = .running := rfl
@[simp] theorem chipReset_mem (s : State) : (chipReset s).mem = [] := rfl
@[simp] theorem chipReset_prog (s : State) : (chipReset s).prog = s.prog := rfl
@[simp] theorem chipReset_cfg (s : State) : (chipReset s).cfg = s.cfg := rfl
@[simp] theorem chipReset_inputs (s : State) : (chipReset s).inputs = s.inputs := rfl
@[simp] theorem chipReset_tick (s : State) : (chipReset s).tick = s.tick := rfl
@[simp] theorem chipReset_sbmset7 (s : State) : (chipReset s).sbmset7 = s.cfg.sbmset7 := rfl
@[simp] theorem chipReset_wdtStuck (s : State) : (chipReset s).wdtStuck = false := rfl
@[simp] theorem chipReset_stkfl (s : State) : (chipReset s).stkfl = stickyAfterReset s s.stkfl .stkptr 0 := rfl
@[simp] theorem chipReset_stkov (s : State) : (chipReset s).stkov = stickyAfterReset s s.stkov .stkptr 1 := rfl
@[simp] theorem chipReset_stkun (s : State) : (chipReset s).stkun = stickyAfterReset s s.stkun .stkptr 2 := rfl
@[simp] theorem chipReset_skerr (s : State) : (chipReset s).skerr = stickyAfterReset s s.skerr .pstatus 0 := rfl

@[simp] theorem chipReset_stk_length (s : State) : (chipReset s).stk.length = s.cfg.stackDepth := by
  simp [chipReset]

end Sys2Proof.Machine
end

