-- ==== Sys2Proof/Laws/Memory.lean ====
section
/-! SUPPORT. The laws of the two memories: a read after a write, and the canonical form. -/

namespace Sys2Proof.Machine

section Cells
variable {β : Type}

/-- Every address of a canonical list's tail is above its head. -/
theorem cellsWf_cons {b : Nat} {u : β} {l : List (Nat × β)} :
    cellsWf ((b, u) :: l) = true ↔ (∀ p ∈ l, b < p.1) ∧ cellsWf l = true := by
  simp [cellsWf, List.pairwise_cons]

@[simp] theorem cellsWf_nil : cellsWf ([] : List (Nat × β)) = true := rfl

/-- A read of the address just written gives the value written. -/
@[simp] theorem cellRead_cellWrite_same (l : List (Nat × β)) (a : Nat) (v : β) :
    cellRead (cellWrite l a v) a = some v := by
  induction l with
  | nil => simp [cellWrite, cellRead]
  | cons p rest ih =>
    obtain ⟨b, u⟩ := p
    unfold cellWrite
    split
    · simp [cellRead]
    · split
      · simp [cellRead]
      · simp [cellRead, *]

/-- A read of any other address gives what it gave before. -/
theorem cellRead_cellWrite_other (l : List (Nat × β)) {a c : Nat} (v : β) (h : c ≠ a) :
    cellRead (cellWrite l a v) c = cellRead l c := by
  induction l with
  | nil => simp [cellWrite, cellRead, h]
  | cons p rest ih =>
    obtain ⟨b, u⟩ := p
    unfold cellWrite
    split
    · simp [cellRead, h]
    · split
      · next hab => subst hab; simp [cellRead, h]
      · simp [cellRead, ih]

/-- What a write leaves in the list: the new entry and entries that were there. -/
theorem mem_cellWrite {l : List (Nat × β)} {a : Nat} {v : β} {p : Nat × β} (h : p ∈ cellWrite l a v) :
    p = (a, v) ∨ p ∈ l := by
  induction l with
  | nil => exact .inl (by simpa [cellWrite] using h)
  | cons q rest ih =>
    obtain ⟨b, u⟩ := q
    unfold cellWrite at h
    split at h
    · simpa using h
    · split at h
      · rcases List.mem_cons.mp h with h | h
        · exact .inl h
        · exact .inr (List.mem_cons_of_mem _ h)
      · rcases List.mem_cons.mp h with h | h
        · exact .inr (h ▸ List.mem_cons_self)
        · exact (ih h).imp_right (List.mem_cons_of_mem _)

/-- A write keeps the canonical form. -/
theorem cellsWf_cellWrite {l : List (Nat × β)} (a : Nat) (v : β) (h : cellsWf l = true) :
    cellsWf (cellWrite l a v) = true := by
  induction l with
  | nil => rfl
  | cons q rest ih =>
    obtain ⟨b, u⟩ := q
    obtain ⟨hb, hr⟩ := cellsWf_cons.mp h
    unfold cellWrite
    split
    · next hab =>
      refine cellsWf_cons.mpr ⟨fun p hp => ?_, h⟩
      rcases List.mem_cons.mp hp with rfl | hp
      · exact hab
      · exact hab.trans (hb p hp)
    · split
      · next hab => exact cellsWf_cons.mpr ⟨fun p hp => hab ▸ hb p hp, hr⟩
      · refine cellsWf_cons.mpr ⟨fun p hp => ?_, ih hr⟩
        rcases mem_cellWrite hp with rfl | hp
        · simp only; omega
        · exact hb p hp

/-- An entry of a canonical list is what its address reads as. -/
theorem cellRead_of_mem {l : List (Nat × β)} {a : Nat} {v : β} (hw : cellsWf l = true) (h : (a, v) ∈ l) :
    cellRead l a = some v := by
  induction l with
  | nil => simp at h
  | cons q rest ih =>
    obtain ⟨b, u⟩ := q
    obtain ⟨hb, hr⟩ := cellsWf_cons.mp hw
    rcases List.mem_cons.mp h with h | h
    · simp_all [cellRead]
    · have := hb _ h
      simp only at this
      simp [cellRead, ih hr h, show a ≠ b by omega]

/-- A value read is an entry of the list. -/
theorem mem_of_cellRead {l : List (Nat × β)} {a : Nat} {v : β} (h : cellRead l a = some v) : (a, v) ∈ l := by
  induction l with
  | nil => simp [cellRead] at h
  | cons q rest ih =>
    obtain ⟨b, u⟩ := q
    unfold cellRead at h
    split at h
    · simp_all
    · exact List.mem_cons_of_mem _ (ih h)

end Cells

/-- Data memory stays canonical under its one write. -/
theorem memory_wf_dmWrite {s : State} (a : DataAddr) (v : Byte) (h : Memory.wf s.mem = true) :
    Memory.wf (dmWrite s a v).mem = true := cellsWf_cellWrite _ _ h

@[simp] theorem dmRead_dmWrite_same (s : State) (a : DataAddr) (v : Byte) : dmRead (dmWrite s a v) a = some v := by
  simp [dmRead]

theorem dmRead_dmWrite_other (s : State) {a c : DataAddr} (v : Byte) (h : c ≠ a) :
    dmRead (dmWrite s a v) c = dmRead s c :=
  cellRead_cellWrite_other _ _ fun e => h (BitVec.eq_of_toNat_eq e)

/-- Program memory stays canonical under a write at a program address. -/
theorem progMemory_wf_cellWrite {m : ProgMemory} {a : Nat} (c : ProgCell) (ha : a < progSpace)
    (h : ProgMemory.wf m = true) : ProgMemory.wf (cellWrite m a c) = true := by
  simp only [ProgMemory.wf, Bool.and_eq_true, List.all_eq_true, decide_eq_true_eq] at h ⊢
  refine ⟨cellsWf_cellWrite _ _ h.1, fun p hp => ?_⟩
  rcases mem_cellWrite hp with rfl | hp
  · exact ha
  · exact h.2 p hp

/-- The reset state's memories are canonical. -/
theorem reset_memories_wf (c : Cfg) :
    Memory.wf (State.resetWith c).mem = true ∧ ProgMemory.wf (State.resetWith c).prog = true := ⟨rfl, rfl⟩

/-- `State.withFetchWord` keeps program memory canonical, where the instruction fits below 4000H. -/
theorem withFetchWord_prog_wf {s : State} (nbits w : Nat) (hpc : s.pc.toNat + 1 < progSpace)
    (h : ProgMemory.wf s.prog = true) : ProgMemory.wf (s.withFetchWord nbits w).prog = true := by
  have h1 (c : ProgCell) := progMemory_wf_cellWrite c (Nat.lt_of_succ_lt hpc) h
  simp only [State.withFetchWord, placeAtPc, loadWords]
  split
  · split
    · exact progMemory_wf_cellWrite _ hpc (h1 _)
    · exact h1 _
  · exact h1 _

end Sys2Proof.Machine
end

