-- ==== Sys2Proof/Laws/Ops.lean ====
section
/-! SUPPORT. One lemma per shared operation that says once everything it can do. -/

namespace Sys2Proof.Machine

/-! ## Outcomes -/

/-- A meaning that reads a byte and goes on: the read succeeded. -/
theorem withByte_next {s : State} {ea : DataAddr} {k : Byte → Out} {t : State}
    (h : withByte s ea k = .next t) : ∃ x, memRead s ea = .ok x ∧ k x = .next t := by
  unfold withByte at h
  split at h
  · exact ⟨_, ‹_›, h⟩
  · cases h

@[simp] theorem withByte_ok {s : State} {ea : DataAddr} {k : Byte → Out} {x : Byte} (h : memRead s ea = .ok x) :
    withByte s ea k = k x := by simp [withByte, h]

@[simp] theorem withByte_error {s : State} {ea : DataAddr} {k : Byte → Out} {e : Fault}
    (h : memRead s ea = .error e) : withByte s ea k = .fault e := by simp [withByte, h]

/-! ## Addresses -/

@[simp] theorem targetOf_wregAddr (c : Cfg) : targetOf c wregAddr = .wreg := by simp [targetOf]

/-- Only 02CH is W. -/
theorem eq_wregAddr_of_target {c : Cfg} {a : DataAddr} (h : targetOf c a = .wreg) : a = wregAddr := by
  unfold targetOf at h
  split at h
  · assumption
  · split at h
    · cases h
    · split at h <;> cases h

/-- A pointer that is followed leads to itself, and that is no INDFx. -/
theorem followPtr_ok {s : State} {p e : DataAddr} (h : followPtr s p = .ok e) :
    e = p ∧ targetOf s.cfg p ≠ .reg .indf0 ∧ targetOf s.cfg p ≠ .reg .indf1 := by
  unfold followPtr at h
  split at h
  · cases h
  · cases h
  · next h0 h1 =>
    cases h
    exact ⟨rfl, h0, h1⟩

/-- Everything `resolve` can answer: the address itself, or what one of the two pointers holds; never INDFx. -/
theorem resolve_ok {s : State} {a e : DataAddr} (h : resolve s a = .ok e) :
    (e = a ∨ (targetOf s.cfg a = .reg .indf0 ∧ e = fsr0Ptr s) ∨ (targetOf s.cfg a = .reg .indf1 ∧ e = fsr1Ptr s)) ∧
      targetOf s.cfg e ≠ .reg .indf0 ∧ targetOf s.cfg e ≠ .reg .indf1 := by
  unfold resolve at h
  split at h
  · next h0 =>
    obtain ⟨rfl, hn⟩ := followPtr_ok h
    exact ⟨.inr (.inl ⟨h0, rfl⟩), hn⟩
  · next h1 =>
    obtain ⟨rfl, hn⟩ := followPtr_ok h
    exact ⟨.inr (.inr ⟨h1, rfl⟩), hn⟩
  · next h0 h1 =>
    cases h
    exact ⟨.inl rfl, h0, h1⟩

/-- An address that is no INDFx is accessed itself. -/
theorem resolve_direct {s : State} {a : DataAddr} (h0 : targetOf s.cfg a ≠ .reg .indf0)
    (h1 : targetOf s.cfg a ≠ .reg .indf1) : resolve s a = .ok a := by
  unfold resolve
  split <;> simp_all

/-- `resolve` depends on the product and the pointers alone. -/
theorem resolve_congr {s t : State} (hc : t.cfg = s.cfg) (h0h : t.fsr0h = s.fsr0h) (h0l : t.fsr0l = s.fsr0l)
    (h1h : t.fsr1h = s.fsr1h) (h1l : t.fsr1l = s.fsr1l) (a : DataAddr) : resolve t a = resolve s a := by
  simp [resolve, followPtr, fsr0Ptr, fsr1Ptr, *]

/-! ## Data-space writes -/

/-- What no write through data space changes. -/
structure SameCore (s t : State) : Prop where
  stk : t.stk = s.stk
  sp : t.sp = s.sp
  sbmset7 : t.sbmset7 = s.sbmset7
  wregsdw : t.wregsdw = s.wregsdw
  stasdw : t.stasdw = s.stasdw
  bsrsdw : t.bsrsdw = s.bsrsdw
  wdt : t.wdt = s.wdt
  wdtStuck : t.wdtStuck = s.wdtStuck
  run : t.run = s.run
  prog : t.prog = s.prog
  inputs : t.inputs = s.inputs
  tick : t.tick = s.tick
  cfg : t.cfg = s.cfg
  pcPast : t.pcPast = s.pcPast

theorem SameCore.refl (s : State) : SameCore s s := ⟨rfl, rfl, rfl, rfl, rfl, rfl, rfl, rfl, rfl, rfl, rfl, rfl, rfl, rfl⟩

theorem SameCore.trans {s t u : State} (h : SameCore s t) (k : SameCore t u) : SameCore s u :=
  ⟨k.stk.trans h.stk, k.sp.trans h.sp, k.sbmset7.trans h.sbmset7, k.wregsdw.trans h.wregsdw, k.stasdw.trans h.stasdw,
    k.bsrsdw.trans h.bsrsdw, k.wdt.trans h.wdt, k.wdtStuck.trans h.wdtStuck, k.run.trans h.run, k.prog.trans h.prog,
    k.inputs.trans h.inputs, k.tick.trans h.tick, k.cfg.trans h.cfg, k.pcPast.trans h.pcPast⟩

/-- A BCF of STKPTR clears flags only. -/
theorem clearStkptrBit_next {s t : State} {b : Nat} (h : clearStkptrBit s b = .next t) :
    t = { s with stkfl := false, stkov := false } ∨ t = { s with stkun := false } := by
  unfold clearStkptrBit at h
  dsimp only at h
  split at h
  · cases h; exact .inl rfl
  · split at h
    · cases h; exact .inr rfl
    · cases h

/-- A BCF of Pstatus clears one flag. -/
theorem clearPstatusBit_next {s t : State} {b : Nat} (h : clearPstatusBit s b = .next t) :
    t = { s with skerr := false } ∨ t = { s with timeOut := false } ∨ t = { s with idleb := false } ∨
      t = { s with pd := false } := by
  unfold clearPstatusBit at h
  dsimp only at h
  split at h
  · cases h; simp
  · split at h
    · cases h; simp
    · split at h
      · cases h; simp
      · split at h
        · cases h; simp
        · cases h

/-- A write of a named register leaves both memories, the stack, the shadows and the run state alone. -/
theorem writeSfr_next {k : WriteKind} {s t : State} {v : Byte} {r : Sfr} (h : writeSfr k s v r = .next t) :
    SameCore s t ∧ t.mem = s.mem := by
  cases r <;> cases k <;> simp only [writeSfr] at h <;> try (cases h; done)
  all_goals first
    | (cases h; exact ⟨⟨rfl, rfl, rfl, rfl, rfl, rfl, rfl, rfl, rfl, rfl, rfl, rfl, rfl, rfl⟩, rfl⟩)
    | (rcases clearStkptrBit_next h with rfl | rfl <;>
        exact ⟨⟨rfl, rfl, rfl, rfl, rfl, rfl, rfl, rfl, rfl, rfl, rfl, rfl, rfl, rfl⟩, rfl⟩)
    | (rcases clearPstatusBit_next h with rfl | rfl | rfl | rfl <;>
        exact ⟨⟨rfl, rfl, rfl, rfl, rfl, rfl, rfl, rfl, rfl, rfl, rfl, rfl, rfl, rfl⟩, rfl⟩)
    | (split at h
       · cases h; exact ⟨⟨rfl, rfl, rfl, rfl, rfl, rfl, rfl, rfl, rfl, rfl, rfl, rfl, rfl, rfl⟩, rfl⟩
       · cases h)

/-- Everything a write through data space can do when it goes on: one plain cell takes the byte, W takes it, or
a named register is written; in each case the rest of the core stays. -/
theorem memWrite_next {k : WriteKind} {s t : State} {a : DataAddr} {v : Byte} (h : memWrite k s a v = .next t) :
    ∃ e, resolve s a = .ok e ∧ SameCore s t ∧
      ((targetOf s.cfg e = .ram ∧ t = dmWrite s e v) ∨ (targetOf s.cfg e = .wreg ∧ t = { s with w := v }) ∨
        ∃ r, targetOf s.cfg e = .reg r ∧ writeSfr k s v r = .next t ∧ t.mem = s.mem) := by
  unfold memWrite at h
  split at h
  · next e he =>
    refine ⟨e, he, ?_⟩
    unfold writeDirect at h
    split at h
    · next ht =>
      cases h
      exact ⟨⟨rfl, rfl, rfl, rfl, rfl, rfl, rfl, rfl, rfl, rfl, rfl, rfl, rfl, rfl⟩, .inr (.inl ⟨ht, rfl⟩)⟩
    · next r ht => exact ⟨(writeSfr_next h).1, .inr (.inr ⟨r, ht, h, (writeSfr_next h).2⟩)⟩
    · next ht =>
      cases h
      exact ⟨⟨rfl, rfl, rfl, rfl, rfl, rfl, rfl, rfl, rfl, rfl, rfl, rfl, rfl, rfl⟩, .inl ⟨ht, rfl⟩⟩
    · cases h
  · cases h

/-- A data-space write changes memory at one plain cell at most. -/
theorem memWrite_mem {k : WriteKind} {s t : State} {a : DataAddr} {v : Byte} (h : memWrite k s a v = .next t) :
    t.mem = s.mem ∨ ∃ e, resolve s a = .ok e ∧ targetOf s.cfg e = .ram ∧ t.mem = cellWrite s.mem e.toNat v := by
  obtain ⟨e, he, -, ⟨ht, rfl⟩ | ⟨-, rfl⟩ | ⟨r, -, -, hm⟩⟩ := memWrite_next h
  · exact .inr ⟨e, he, ht, rfl⟩
  · exact .inl rfl
  · exact .inl hm

/-- Everything the destination select can do. -/
theorem dest_next {k : WriteKind} {d : Dest} {s t : State} {ea : DataAddr} {v : Byte}
    (h : dest k d ea v s = .next t) : (d = .w ∧ t = { s with w := v }) ∨ (d = .f ∧ memWrite k s ea v = .next t) := by
  cases d
  · exact .inl ⟨rfl, by simpa [dest] using h.symm⟩
  · exact .inr ⟨rfl, h⟩

/-- The destination select leaves the core alone. -/
theorem dest_sameCore {k : WriteKind} {d : Dest} {s t : State} {ea : DataAddr} {v : Byte}
    (h : dest k d ea v s = .next t) : SameCore s t := by
  obtain ⟨-, rfl⟩ | ⟨-, h⟩ := dest_next h
  · exact ⟨rfl, rfl, rfl, rfl, rfl, rfl, rfl, rfl, rfl, rfl, rfl, rfl, rfl, rfl⟩
  · obtain ⟨e, -, hs, -⟩ := memWrite_next h
    exact hs

/-- The destination select changes memory at one plain cell at most. -/
theorem dest_mem {k : WriteKind} {d : Dest} {s t : State} {ea : DataAddr} {v : Byte}
    (h : dest k d ea v s = .next t) :
    t.mem = s.mem ∨ ∃ e, resolve s ea = .ok e ∧ targetOf s.cfg e = .ram ∧ t.mem = cellWrite s.mem e.toNat v := by
  obtain ⟨-, rfl⟩ | ⟨-, h⟩ := dest_next h
  · exact .inl rfl
  · exact memWrite_mem h

/-! ## The stack -/

/-- The three ways a push ends (`60` R400). -/
theorem pushThen_cases (s : State) (v : ProgAddr) (k : State → State) :
    (s.sp < s.cfg.stackDepth ∧
        pushThen s v k =
          k { s with
              sp := s.sp + 1, stk := s.stk.set s.sp v
              stkfl := s.stkfl || decide (s.sp + 1 = s.cfg.stackDepth) }) ∨
      (s.cfg.stackDepth ≤ s.sp ∧ s.sbmset7 = true ∧
        pushThen s v k = chipReset { s with stkov := true, skerr := true }) ∨
      (s.cfg.stackDepth ≤ s.sp ∧ s.sbmset7 = false ∧
        pushThen s v k =
          k { s with
              stkov := true, skerr := true
              stk := s.stk.set (s.cfg.stackDepth - 1) (Config.openAddr s.tick .spoiledEntry) }) := by
  unfold pushThen
  by_cases h : s.sp < s.cfg.stackDepth
  · exact .inl ⟨h, by simp [h]⟩
  · by_cases hb : s.sbmset7
    · exact .inr (.inl ⟨Nat.le_of_not_lt h, hb, by simp [h, hb]⟩)
    · exact .inr (.inr ⟨Nat.le_of_not_lt h, by simpa using hb, by simp [h, hb]⟩)

/-- The two ways a pop goes on (`60` R402). -/
theorem popThen_next {s t : State} {k : State → State} (h : popThen s k = .next t) :
    (s.sp = 0 ∧ s.sbmset7 = true ∧ t = chipReset { s with stkun := true, skerr := true }) ∨
      (s.sp ≠ 0 ∧ t = k (setPc { s with sp := s.sp - 1 } (tos s))) := by
  unfold popThen at h
  split at h
  · split at h
    · cases h; exact .inl ⟨‹_›, ‹_›, rfl⟩
    · cases h
  · cases h; exact .inr ⟨‹_›, rfl⟩

/-! ## Skips -/

/-- A skip goes on to the next instruction or past it. -/
theorem skipIf_next {c : Bool} {t u : State} (h : skipIf c t = .next u) :
    (c = false ∧ u = t) ∨ (c = true ∧ ∃ p, skipTarget t = some p ∧ u = setPc t p) := by
  unfold skipIf at h
  split at h
  · next hc =>
    split at h
    · next p hp => cases h; exact .inr ⟨hc, p, hp, rfl⟩
    · cases h
  · next hc => cases h; exact .inl ⟨Bool.eq_false_iff.mpr hc, rfl⟩

/-- A count-and-skip stores its result and then at most sets the PC. -/
theorem countSkip_next {f : Byte} {d : Dest} {a : Bank} {g : Byte → Byte} {c : Byte → Bool} {s u : State}
    (h : countSkip f d a g c s = .next u) :
    ∃ x t, memRead (advance s 1) (effAddr f a s) = .ok x ∧
      dest .modify d (effAddr f a s) (g x) (advance s 1) = .next t ∧ (u = t ∨ ∃ p, u = setPc t p) := by
  obtain ⟨x, hx, h⟩ := withByte_next h
  split at h
  · next t ht =>
    refine ⟨x, t, hx, ht, ?_⟩
    split at h
    · split at h
      · split at h <;> cases h <;> exact .inr ⟨_, rfl⟩
      · cases h
    · cases h; exact .inl rfl
  · cases h
  · cases h

/-! ## The families' shapes -/

/-- A flag-writing file instruction: the byte was read, the flags and the destination written. -/
theorem fileFlagged_next {f : Byte} {d : Dest} {a : Bank} {g : State → Byte → AluResult} {s t : State}
    (h : fileFlagged f d a g s = .next t) :
    ∃ x, memRead (advance s 1) (effAddr f a s) = .ok x ∧
      dest .modifyFlags d (effAddr f a s) (g s x).r { advance s 1 with status := (g s x).flags } = .next t :=
  withByte_next h

/-- A file instruction that writes no flag. -/
theorem fileUnflagged_next {f : Byte} {d : Dest} {a : Bank} {g : Byte → Byte} {s t : State}
    (h : fileUnflagged f d a g s = .next t) :
    ∃ x, memRead (advance s 1) (effAddr f a s) = .ok x ∧
      dest .modify d (effAddr f a s) (g x) (advance s 1) = .next t :=
  withByte_next h

/-- A bit instruction that writes back. -/
theorem fileBit_next {k : WriteKind} {f : Byte} {a : Bank} {g : Byte → Byte} {s t : State}
    (h : fileBit k f a g s = .next t) :
    ∃ x, memRead (advance s 1) (effAddr f a s) = .ok x ∧
      memWrite k (advance s 1) (effAddr f a s) (g x) = .next t :=
  withByte_next h

/-- A test-and-skip writes only the PC. -/
theorem testSkip_next {f : Byte} {a : Bank} {c : Byte → Bool} {s t : State} (h : testSkip f a c s = .next t) :
    ∃ x, memRead (advance s 1) (effAddr f a s) = .ok x ∧ (t = advance s 1 ∨ ∃ p, t = setPc (advance s 1) p) := by
  obtain ⟨x, hx, h⟩ := withByte_next h
  refine ⟨x, hx, ?_⟩
  obtain ⟨-, rfl⟩ | ⟨-, p, -, rfl⟩ := skipIf_next h
  · exact .inl rfl
  · exact .inr ⟨p, rfl⟩

/-! ## Fetching -/

/-- The words of an instruction start only below the program's end, at a word marked as a first one. -/
theorem imageAt_ok {s : State} {a : Nat} {ws : List Word} (h : imageAt s a = .ok ws) :
    a < progSpace ∧ a < s.cfg.progSize ∧
      ((∃ w, cellRead s.prog a = some { kind := .first, word := w } ∧ ws = [w]) ∨
        ∃ w w2, cellRead s.prog a = some { kind := .firstOfTwo, word := w } ∧ secondWordAt s a = some w2 ∧
          ws = [w, w2]) := by
  unfold imageAt at h
  split at h
  · next ha =>
    refine ⟨ha.1, ha.2, ?_⟩
    split at h
    · cases h
    · cases h
    · cases h
    · next w hw =>
      cases h
      exact .inl ⟨w, hw, rfl⟩
    · next w hw =>
      split at h
      · next w2 hw2 =>
        cases h
        exact .inr ⟨w, w2, hw, hw2, rfl⟩
      · cases h
  · cases h

/-- An instruction is fetched exactly where words that are its image start. -/
theorem fetchAt_ok {s : State} {a : Nat} {i : Instr} (h : fetchAt s a = .ok i) :
    ∃ ws, imageAt s a = .ok ws ∧ s.cfg.encoding.decodeImage ws = .ok i := by
  unfold fetchAt at h
  split at h
  · next ws hws =>
    split at h
    · next j hj =>
      cases h
      exact ⟨ws, hws, hj⟩
    · cases h
  · cases h

end Sys2Proof.Machine
end

