-- ==== Sys2Proof/Laws/Exec.lean ====
section
/-! SUPPORT. What an instruction can do, said once: the nine instructions that move the stack, the watchdog
counter or the run state by name, and every other one by the part of the machine it leaves alone. -/

namespace Sys2Proof.Machine

/-- The nine forms that write more than data registers, memory, flags and the PC. -/
def coreOps : List Op := [.call, .rcall, .ret, .reti, .retl, .pop, .cwdt, .idle, .slp]

/-- `t` has the core of `s`, whatever became of the PC. -/
def SameCoreButPc (s t : State) : Prop := SameCore { s with pcPast := t.pcPast } t

/-- The PC is no part of the core. -/
theorem SameCore.butPc {s t : State} {n : Nat} (h : SameCore (advance s n) t) : SameCoreButPc s t :=
  ⟨h.stk, h.sp, h.sbmset7, h.wregsdw, h.stasdw, h.bsrsdw, h.wdt, h.wdtStuck, h.run, h.prog, h.inputs, h.tick, h.cfg,
    rfl⟩

theorem SameCoreButPc.setPc {s t : State} (h : SameCoreButPc s t) (p : ProgAddr) : SameCoreButPc s (setPc t p) :=
  ⟨h.stk, h.sp, h.sbmset7, h.wregsdw, h.stasdw, h.bsrsdw, h.wdt, h.wdtStuck, h.run, h.prog, h.inputs, h.tick, h.cfg,
    rfl⟩

theorem fileFlagged_core {f : Byte} {d : Dest} {a : Bank} {g : State → Byte → AluResult} {s t : State}
    (h : fileFlagged f d a g s = .next t) : SameCoreButPc s t := by
  obtain ⟨x, -, h⟩ := fileFlagged_next h
  have k := dest_sameCore h
  exact ⟨k.stk, k.sp, k.sbmset7, k.wregsdw, k.stasdw, k.bsrsdw, k.wdt, k.wdtStuck, k.run, k.prog, k.inputs, k.tick,
    k.cfg, rfl⟩

theorem fileUnflagged_core {f : Byte} {d : Dest} {a : Bank} {g : Byte → Byte} {s t : State}
    (h : fileUnflagged f d a g s = .next t) : SameCoreButPc s t := by
  obtain ⟨x, -, h⟩ := fileUnflagged_next h
  exact (dest_sameCore h).butPc

theorem memWrite_core {k : WriteKind} {s t : State} {n : Nat} {a : DataAddr} {v : Byte}
    (h : memWrite k (advance s n) a v = .next t) : SameCoreButPc s t := by
  obtain ⟨-, -, hs, -⟩ := memWrite_next h
  exact hs.butPc

theorem fileBit_core {k : WriteKind} {f : Byte} {a : Bank} {g : Byte → Byte} {s t : State}
    (h : fileBit k f a g s = .next t) : SameCoreButPc s t := by
  obtain ⟨x, -, h⟩ := fileBit_next h
  exact memWrite_core h

theorem testSkip_core {f : Byte} {a : Bank} {c : Byte → Bool} {s t : State} (h : testSkip f a c s = .next t) :
    SameCoreButPc s t := by
  obtain ⟨x, -, rfl | ⟨p, rfl⟩⟩ := testSkip_next h
  · exact (SameCore.refl _).butPc
  · exact (SameCore.refl (advance s 1)).butPc.setPc p

theorem countSkip_core {f : Byte} {d : Dest} {a : Bank} {g : Byte → Byte} {c : Byte → Bool} {s t : State}
    (h : countSkip f d a g c s = .next t) : SameCoreButPc s t := by
  obtain ⟨x, u, -, hd, rfl | ⟨p, rfl⟩⟩ := countSkip_next h
  · exact (dest_sameCore hd).butPc
  · exact (dest_sameCore hd).butPc.setPc p

theorem execMvf_core {f : Byte} {d : Dest} {a : Bank} {s t : State} (h : execMvf f d a s = .next t) :
    SameCoreButPc s t := by
  cases d with
  | w =>
    obtain ⟨x, -, h⟩ := withByte_next h
    cases h
    exact ⟨rfl, rfl, rfl, rfl, rfl, rfl, rfl, rfl, rfl, rfl, rfl, rfl, rfl, rfl⟩
  | f => exact memWrite_core h

theorem execMvff_core {fs fd : DataAddr} {s t : State} (h : execMvff fs fd s = .next t) : SameCoreButPc s t := by
  obtain ⟨x, -, h⟩ := withByte_next h
  exact memWrite_core h

theorem execMulf_core {f : Byte} {a : Bank} {s t : State} (h : execMulf f a s = .next t) : SameCoreButPc s t := by
  obtain ⟨x, -, h⟩ := withByte_next h
  cases h
  exact ⟨rfl, rfl, rfl, rfl, rfl, rfl, rfl, rfl, rfl, rfl, rfl, rfl, rfl, rfl⟩

theorem jumpIf_core {c : Bool} {n : BitVec 8} {s t : State} (h : jumpIf c n s = .next t) : SameCoreButPc s t := by
  cases c <;> cases h <;> exact ⟨rfl, rfl, rfl, rfl, rfl, rfl, rfl, rfl, rfl, rfl, rfl, rfl, rfl, rfl⟩

/-- Every instruction but the nine leaves the core alone: the stack and its pointer, the shadows, the watchdog
counter, the run state, program memory and the product. -/
theorem exec_core {i : Instr} {s t : State} (h : exec i s = .next t) (hi : i.op ∉ coreOps) : SameCoreButPc s t := by
  cases i with
  | call | rcall | ret | reti | retl | pop | cwdt | idle | slp => exact absurd (by simp [coreOps, Instr.op]) hi
  | addc | addf | andf | arlc | arrc | comf | dcf | inf | iorf | rlf | rlfc | rrf | rrfc | subc | subf | xorf =>
    simp only [exec] at h
    exact fileFlagged_core h
  | swpf =>
    simp only [exec] at h
    exact fileUnflagged_core h
  | clrf | setf =>
    simp only [exec] at h
    exact memWrite_core h
  | cpse | cpsg | cpsl | tfsz | btss | btsz =>
    simp only [exec] at h
    exact testSkip_core h
  | dcsuz | dcsz | insuz | insz =>
    simp only [exec] at h
    exact countSkip_core h
  | bcf | bsf | btgf =>
    simp only [exec] at h
    exact fileBit_core h
  | mvf => exact execMvf_core h
  | mvff => exact execMvff_core h
  | mulf => exact execMulf_core h
  | jc | jnc | jn | jnn | jo | jno | jz | jnz =>
    simp only [exec] at h
    exact jumpIf_core h
  | ldpr k f => cases f <;> cases h <;> exact ⟨rfl, rfl, rfl, rfl, rfl, rfl, rfl, rfl, rfl, rfl, rfl, rfl, rfl, rfl⟩
  | addl | andl | iorl | subl | xorl | mvl | mull | lbsr | jmp | rj | nop | mvlp | tblr | tblrInc =>
    cases h
    exact ⟨rfl, rfl, rfl, rfl, rfl, rfl, rfl, rfl, rfl, rfl, rfl, rfl, rfl, rfl⟩

/-- The five ways a step goes on: a chip reset from outside, a watchdog time-out, the entry of an interrupt, a
boundary in Idle or Sleeping at which no interrupt is entered, or an instruction. -/
theorem step_next {s t : State} (h : step s = .next t) :
    s.wdtStuck = false ∧
      (((inputNow s).reset = true ∧ t = chipReset (beginStep s)) ∨
        ((inputNow s).wdt = true ∧ t = watchdogTimeOut (beginStep s)) ∨
        ((inputNow s).irq = true ∧ s.gie = true ∧ (s.run = .running ∨ (wakeSet s).irq = true) ∧
          t = interruptEntry (beginStep s)) ∨
        (s.run ≠ .running ∧ (t = { beginStep s with run := .running } ∨ t = { s with inputs := s.inputs.tail })) ∨
        ∃ i, instrBoundary s ∧ fetchAt s s.pc.toNat = .ok i ∧ exec i (beginStep s) = .next t) := by
  unfold step at h
  split at h
  · cases h
  next h1 =>
    refine ⟨Bool.eq_false_iff.mpr h1, ?_⟩
    split at h
    · next h2 => cases h; exact .inl ⟨h2, rfl⟩
    · next h2 =>
      split at h
      · next h3 => cases h; exact .inr (.inl ⟨(Bool.and_eq_true_iff.mp h3).1, rfl⟩)
      · next h3 =>
        split at h
        · next h4 =>
          split at h
          · next h5 =>
            cases h
            obtain ⟨h5, h6⟩ := Bool.and_eq_true_iff.mp h5
            exact .inr (.inr (.inl ⟨h5, h6, .inl h4, rfl⟩))
          · next h5 =>
            unfold runInstr at h
            split at h
            · cases h
            · next h6 =>
              split at h
              · next i hi =>
                refine .inr (.inr (.inr (.inr ⟨i, ⟨?_, h4, ?_, ?_, fun hw => ?_, fun hq => ?_⟩, hi, h⟩)))
                · simpa using h1
                · simpa using h6
                · simpa using h2
                · simpa [hw] using h3
                · simpa [hq] using h5
              · cases h
        all_goals
          next h4 =>
            simp only [Host.Outcome.next.injEq] at h
            subst h
            unfold haltedStep
            have hr : s.run ≠ .running := by rw [h4]; simp
            split
            · next h5 =>
              obtain ⟨h5, h6⟩ := Bool.and_eq_true_iff.mp h5
              split
              · next h7 => exact .inr (.inr (.inl ⟨h5, h7, .inr h6, rfl⟩))
              · exact .inr (.inr (.inr (.inl ⟨hr, .inl rfl⟩)))
            · split
              · exact .inr (.inr (.inr (.inl ⟨hr, .inl rfl⟩)))
              · exact .inr (.inr (.inr (.inl ⟨hr, .inr rfl⟩)))

end Sys2Proof.Machine
end

