-- ==== Sys2Proof/Laws/PerInstr.lean ====
section
/-! SUPPORT. The family `Packing`, one lemma per constructor of `Instr`: an instruction's operands, packed into
one number, fit its format's width (`30` R103) and unpack to the instruction. -/

namespace Sys2Proof

/-! ## One lemma per format -/

/-- A field's low part and the parts above it. -/
theorem ofNat_add_mul {k : Nat} (x : BitVec k) (y : Nat) : BitVec.ofNat k (x.toNat + 2 ^ k * y) = x := by
  apply BitVec.eq_of_toNat_eq
  simp [Nat.mod_eq_of_lt x.isLt]

theorem Dest.bit_lt (d : Dest) : d.bit < 2 := by cases d <;> decide
theorem Bank.bit_lt (a : Bank) : a.bit < 2 := by cases a <;> decide
theorem FsrSel.bit_lt (f : FsrSel) : f.bit < 2 := by cases f <;> decide

theorem Dest.ofBit_of_mod {n : Nat} {d : Dest} (h : n % 2 = d.bit) : Dest.ofBit n = d := by
  cases d <;> simp_all [Dest.ofBit, Dest.bit]

theorem Bank.ofBit_of_mod {n : Nat} {a : Bank} (h : n % 2 = a.bit) : Bank.ofBit n = a := by
  cases a <;> simp_all [Bank.ofBit, Bank.bit]

theorem FsrSel.ofBit_of_mod {n : Nat} {f : FsrSel} (h : n % 2 = f.bit) : FsrSel.ofBit n = f := by
  cases f <;> simp_all [FsrSel.ofBit, FsrSel.bit]

theorem pack_fda (f : Byte) (d : Dest) (a : Bank) :
    f.toNat + 256 * d.bit + 512 * a.bit < 2 ^ 10 ∧ .ofNat 8 (f.toNat + 256 * d.bit + 512 * a.bit) = f ∧
      .ofBit ((f.toNat + 256 * d.bit + 512 * a.bit) / 256) = d ∧
      .ofBit ((f.toNat + 256 * d.bit + 512 * a.bit) / 512) = a := by
  have := f.isLt; have := d.bit_lt; have := a.bit_lt
  refine ⟨by omega, ?_, Dest.ofBit_of_mod (by omega), Bank.ofBit_of_mod (by omega)⟩
  rw [show f.toNat + 256 * d.bit + 512 * a.bit = f.toNat + 2 ^ 8 * (d.bit + 2 * a.bit) by omega, ofNat_add_mul]

theorem pack_fa (f : Byte) (a : Bank) :
    f.toNat + 256 * a.bit < 2 ^ 9 ∧ .ofNat 8 (f.toNat + 256 * a.bit) = f ∧
      .ofBit ((f.toNat + 256 * a.bit) / 256) = a := by
  have := f.isLt; have := a.bit_lt
  refine ⟨by omega, ?_, Bank.ofBit_of_mod (by omega)⟩
  rw [show (256 : Nat) = 2 ^ 8 by rfl, ofNat_add_mul]

theorem pack_fba (f : Byte) (b : BitVec 3) (a : Bank) :
    f.toNat + 256 * b.toNat + 2048 * a.bit < 2 ^ 12 ∧ .ofNat 8 (f.toNat + 256 * b.toNat + 2048 * a.bit) = f ∧
      .ofNat 3 ((f.toNat + 256 * b.toNat + 2048 * a.bit) / 256) = b ∧
      .ofBit ((f.toNat + 256 * b.toNat + 2048 * a.bit) / 2048) = a := by
  have := f.isLt; have := b.isLt; have := a.bit_lt
  refine ⟨by omega, ?_, ?_, Bank.ofBit_of_mod (by omega)⟩
  · rw [show f.toNat + 256 * b.toNat + 2048 * a.bit = f.toNat + 2 ^ 8 * (b.toNat + 8 * a.bit) by omega, ofNat_add_mul]
  · rw [show (f.toNat + 256 * b.toNat + 2048 * a.bit) / 256 = b.toNat + 2 ^ 3 * a.bit by omega, ofNat_add_mul]

theorem pack_k8 (k : Byte) : k.toNat < 2 ^ 8 ∧ .ofNat 8 k.toNat = k := ⟨k.isLt, by simp⟩
theorem pack_k3 (k : BitVec 3) : k.toNat < 2 ^ 3 ∧ .ofNat 3 k.toNat = k := ⟨k.isLt, by simp⟩
theorem pack_n14 (n : ProgAddr) : n.toNat < 2 ^ 14 ∧ .ofNat 14 n.toNat = n := ⟨n.isLt, by simp⟩
theorem pack_rel11 (n : BitVec 11) : n.toNat < 2 ^ 11 ∧ .ofNat 11 n.toNat = n := ⟨n.isLt, by simp⟩
theorem pack_s (s : Bool) : s.toNat < 2 ^ 1 ∧ (s.toNat % 2 == 1) = s := by cases s <;> decide

theorem pack_k11f (k : DataAddr) (f : FsrSel) :
    k.toNat + 2048 * f.bit < 2 ^ 12 ∧ .ofNat 11 (k.toNat + 2048 * f.bit) = k ∧
      .ofBit ((k.toNat + 2048 * f.bit) / 2048) = f := by
  have := k.isLt; have := f.bit_lt
  refine ⟨by omega, ?_, FsrSel.ofBit_of_mod (by omega)⟩
  rw [show (2048 : Nat) = 2 ^ 11 by rfl, ofNat_add_mul]

theorem pack_fsfd (fs fd : DataAddr) :
    fs.toNat + 2048 * fd.toNat < 2 ^ 22 ∧ .ofNat 11 (fs.toNat + 2048 * fd.toNat) = fs ∧
      .ofNat 11 ((fs.toNat + 2048 * fd.toNat) / 2048) = fd := by
  have := fs.isLt; have := fd.isLt
  refine ⟨by omega, ?_, ?_⟩
  · rw [show (2048 : Nat) = 2 ^ 11 by rfl, ofNat_add_mul]
  · rw [show (fs.toNat + 2048 * fd.toNat) / 2048 = fd.toNat by omega]; simp

theorem pack_n14s (n : ProgAddr) (s : Bool) :
    n.toNat + 16384 * s.toNat < 2 ^ 15 ∧ .ofNat 14 (n.toNat + 16384 * s.toNat) = n ∧
      ((n.toNat + 16384 * s.toNat) / 16384 % 2 == 1) = s := by
  have := n.isLt
  refine ⟨by have := Bool.toNat_le s; omega, ?_, ?_⟩
  · rw [show (16384 : Nat) = 2 ^ 14 by rfl, ofNat_add_mul]
  · rw [show (n.toNat + 16384 * s.toNat) / 16384 = s.toNat by omega]; cases s <;> rfl

/-! ## One lemma per constructor -/

/-- The operands fit the format and unpack to the instruction. -/
def Laws.Packing.Statement (i : Instr) : Prop :=
  i.operands < 2 ^ i.op.format.width ∧ i.op.unpack i.operands = i

theorem Laws.Packing.addc (f : Byte) (d : Dest) (a : Bank) : Laws.Packing.Statement (.addc f d a) := by
  obtain ⟨h, h1, h2, h3⟩ := pack_fda f d a
  exact ⟨h, by simp only [Instr.op, Instr.operands, Op.unpack, h1, h2, h3]⟩

theorem Laws.Packing.addf (f : Byte) (d : Dest) (a : Bank) : Laws.Packing.Statement (.addf f d a) := by
  obtain ⟨h, h1, h2, h3⟩ := pack_fda f d a
  exact ⟨h, by simp only [Instr.op, Instr.operands, Op.unpack, h1, h2, h3]⟩

theorem Laws.Packing.addl (k : Byte) : Laws.Packing.Statement (.addl k) := by
  obtain ⟨h, h1⟩ := pack_k8 k
  exact ⟨h, by simp only [Instr.op, Instr.operands, Op.unpack, h1]⟩

theorem Laws.Packing.andf (f : Byte) (d : Dest) (a : Bank) : Laws.Packing.Statement (.andf f d a) := by
  obtain ⟨h, h1, h2, h3⟩ := pack_fda f d a
  exact ⟨h, by simp only [Instr.op, Instr.operands, Op.unpack, h1, h2, h3]⟩

theorem Laws.Packing.andl (k : Byte) : Laws.Packing.Statement (.andl k) := by
  obtain ⟨h, h1⟩ := pack_k8 k
  exact ⟨h, by simp only [Instr.op, Instr.operands, Op.unpack, h1]⟩

theorem Laws.Packing.arlc (f : Byte) (d : Dest) (a : Bank) : Laws.Packing.Statement (.arlc f d a) := by
  obtain ⟨h, h1, h2, h3⟩ := pack_fda f d a
  exact ⟨h, by simp only [Instr.op, Instr.operands, Op.unpack, h1, h2, h3]⟩

theorem Laws.Packing.arrc (f : Byte) (d : Dest) (a : Bank) : Laws.Packing.Statement (.arrc f d a) := by
  obtain ⟨h, h1, h2, h3⟩ := pack_fda f d a
  exact ⟨h, by simp only [Instr.op, Instr.operands, Op.unpack, h1, h2, h3]⟩

theorem Laws.Packing.clrf (f : Byte) (a : Bank) : Laws.Packing.Statement (.clrf f a) := by
  obtain ⟨h, h1, h2⟩ := pack_fa f a
  exact ⟨h, by simp only [Instr.op, Instr.operands, Op.unpack, h1, h2]⟩

theorem Laws.Packing.comf (f : Byte) (d : Dest) (a : Bank) : Laws.Packing.Statement (.comf f d a) := by
  obtain ⟨h, h1, h2, h3⟩ := pack_fda f d a
  exact ⟨h, by simp only [Instr.op, Instr.operands, Op.unpack, h1, h2, h3]⟩

theorem Laws.Packing.cpse (f : Byte) (a : Bank) : Laws.Packing.Statement (.cpse f a) := by
  obtain ⟨h, h1, h2⟩ := pack_fa f a
  exact ⟨h, by simp only [Instr.op, Instr.operands, Op.unpack, h1, h2]⟩

theorem Laws.Packing.cpsg (f : Byte) (a : Bank) : Laws.Packing.Statement (.cpsg f a) := by
  obtain ⟨h, h1, h2⟩ := pack_fa f a
  exact ⟨h, by simp only [Instr.op, Instr.operands, Op.unpack, h1, h2]⟩

theorem Laws.Packing.cpsl (f : Byte) (a : Bank) : Laws.Packing.Statement (.cpsl f a) := by
  obtain ⟨h, h1, h2⟩ := pack_fa f a
  exact ⟨h, by simp only [Instr.op, Instr.operands, Op.unpack, h1, h2]⟩

theorem Laws.Packing.dcf (f : Byte) (d : Dest) (a : Bank) : Laws.Packing.Statement (.dcf f d a) := by
  obtain ⟨h, h1, h2, h3⟩ := pack_fda f d a
  exact ⟨h, by simp only [Instr.op, Instr.operands, Op.unpack, h1, h2, h3]⟩

theorem Laws.Packing.dcsuz (f : Byte) (d : Dest) (a : Bank) : Laws.Packing.Statement (.dcsuz f d a) := by
  obtain ⟨h, h1, h2, h3⟩ := pack_fda f d a
  exact ⟨h, by simp only [Instr.op, Instr.operands, Op.unpack, h1, h2, h3]⟩

theorem Laws.Packing.dcsz (f : Byte) (d : Dest) (a : Bank) : Laws.Packing.Statement (.dcsz f d a) := by
  obtain ⟨h, h1, h2, h3⟩ := pack_fda f d a
  exact ⟨h, by simp only [Instr.op, Instr.operands, Op.unpack, h1, h2, h3]⟩

theorem Laws.Packing.inf (f : Byte) (d : Dest) (a : Bank) : Laws.Packing.Statement (.inf f d a) := by
  obtain ⟨h, h1, h2, h3⟩ := pack_fda f d a
  exact ⟨h, by simp only [Instr.op, Instr.operands, Op.unpack, h1, h2, h3]⟩

theorem Laws.Packing.insuz (f : Byte) (d : Dest) (a : Bank) : Laws.Packing.Statement (.insuz f d a) := by
  obtain ⟨h, h1, h2, h3⟩ := pack_fda f d a
  exact ⟨h, by simp only [Instr.op, Instr.operands, Op.unpack, h1, h2, h3]⟩

theorem Laws.Packing.insz (f : Byte) (d : Dest) (a : Bank) : Laws.Packing.Statement (.insz f d a) := by
  obtain ⟨h, h1, h2, h3⟩ := pack_fda f d a
  exact ⟨h, by simp only [Instr.op, Instr.operands, Op.unpack, h1, h2, h3]⟩

theorem Laws.Packing.iorf (f : Byte) (d : Dest) (a : Bank) : Laws.Packing.Statement (.iorf f d a) := by
  obtain ⟨h, h1, h2, h3⟩ := pack_fda f d a
  exact ⟨h, by simp only [Instr.op, Instr.operands, Op.unpack, h1, h2, h3]⟩

theorem Laws.Packing.iorl (k : Byte) : Laws.Packing.Statement (.iorl k) := by
  obtain ⟨h, h1⟩ := pack_k8 k
  exact ⟨h, by simp only [Instr.op, Instr.operands, Op.unpack, h1]⟩

theorem Laws.Packing.lbsr (k : BitVec 3) : Laws.Packing.Statement (.lbsr k) := by
  obtain ⟨h, h1⟩ := pack_k3 k
  exact ⟨h, by simp only [Instr.op, Instr.operands, Op.unpack, h1]⟩

theorem Laws.Packing.ldpr (k : DataAddr) (f : FsrSel) : Laws.Packing.Statement (.ldpr k f) := by
  obtain ⟨h, h1, h2⟩ := pack_k11f k f
  exact ⟨h, by simp only [Instr.op, Instr.operands, Op.unpack, h1, h2]⟩

theorem Laws.Packing.mulf (f : Byte) (a : Bank) : Laws.Packing.Statement (.mulf f a) := by
  obtain ⟨h, h1, h2⟩ := pack_fa f a
  exact ⟨h, by simp only [Instr.op, Instr.operands, Op.unpack, h1, h2]⟩

theorem Laws.Packing.mull (k : Byte) : Laws.Packing.Statement (.mull k) := by
  obtain ⟨h, h1⟩ := pack_k8 k
  exact ⟨h, by simp only [Instr.op, Instr.operands, Op.unpack, h1]⟩

theorem Laws.Packing.mvf (f : Byte) (d : Dest) (a : Bank) : Laws.Packing.Statement (.mvf f d a) := by
  obtain ⟨h, h1, h2, h3⟩ := pack_fda f d a
  exact ⟨h, by simp only [Instr.op, Instr.operands, Op.unpack, h1, h2, h3]⟩

theorem Laws.Packing.mvff (fs fd : DataAddr) : Laws.Packing.Statement (.mvff fs fd) := by
  obtain ⟨h, h1, h2⟩ := pack_fsfd fs fd
  exact ⟨h, by simp only [Instr.op, Instr.operands, Op.unpack, h1, h2]⟩

theorem Laws.Packing.mvl (k : Byte) : Laws.Packing.Statement (.mvl k) := by
  obtain ⟨h, h1⟩ := pack_k8 k
  exact ⟨h, by simp only [Instr.op, Instr.operands, Op.unpack, h1]⟩

theorem Laws.Packing.retl (k : Byte) : Laws.Packing.Statement (.retl k) := by
  obtain ⟨h, h1⟩ := pack_k8 k
  exact ⟨h, by simp only [Instr.op, Instr.operands, Op.unpack, h1]⟩

theorem Laws.Packing.rlf (f : Byte) (d : Dest) (a : Bank) : Laws.Packing.Statement (.rlf f d a) := by
  obtain ⟨h, h1, h2, h3⟩ := pack_fda f d a
  exact ⟨h, by simp only [Instr.op, Instr.operands, Op.unpack, h1, h2, h3]⟩

theorem Laws.Packing.rlfc (f : Byte) (d : Dest) (a : Bank) : Laws.Packing.Statement (.rlfc f d a) := by
  obtain ⟨h, h1, h2, h3⟩ := pack_fda f d a
  exact ⟨h, by simp only [Instr.op, Instr.operands, Op.unpack, h1, h2, h3]⟩

theorem Laws.Packing.rrf (f : Byte) (d : Dest) (a : Bank) : Laws.Packing.Statement (.rrf f d a) := by
  obtain ⟨h, h1, h2, h3⟩ := pack_fda f d a
  exact ⟨h, by simp only [Instr.op, Instr.operands, Op.unpack, h1, h2, h3]⟩

theorem Laws.Packing.rrfc (f : Byte) (d : Dest) (a : Bank) : Laws.Packing.Statement (.rrfc f d a) := by
  obtain ⟨h, h1, h2, h3⟩ := pack_fda f d a
  exact ⟨h, by simp only [Instr.op, Instr.operands, Op.unpack, h1, h2, h3]⟩

theorem Laws.Packing.setf (f : Byte) (a : Bank) : Laws.Packing.Statement (.setf f a) := by
  obtain ⟨h, h1, h2⟩ := pack_fa f a
  exact ⟨h, by simp only [Instr.op, Instr.operands, Op.unpack, h1, h2]⟩

theorem Laws.Packing.subc (f : Byte) (d : Dest) (a : Bank) : Laws.Packing.Statement (.subc f d a) := by
  obtain ⟨h, h1, h2, h3⟩ := pack_fda f d a
  exact ⟨h, by simp only [Instr.op, Instr.operands, Op.unpack, h1, h2, h3]⟩

theorem Laws.Packing.subf (f : Byte) (d : Dest) (a : Bank) : Laws.Packing.Statement (.subf f d a) := by
  obtain ⟨h, h1, h2, h3⟩ := pack_fda f d a
  exact ⟨h, by simp only [Instr.op, Instr.operands, Op.unpack, h1, h2, h3]⟩

theorem Laws.Packing.subl (k : Byte) : Laws.Packing.Statement (.subl k) := by
  obtain ⟨h, h1⟩ := pack_k8 k
  exact ⟨h, by simp only [Instr.op, Instr.operands, Op.unpack, h1]⟩

theorem Laws.Packing.swpf (f : Byte) (d : Dest) (a : Bank) : Laws.Packing.Statement (.swpf f d a) := by
  obtain ⟨h, h1, h2, h3⟩ := pack_fda f d a
  exact ⟨h, by simp only [Instr.op, Instr.operands, Op.unpack, h1, h2, h3]⟩

theorem Laws.Packing.tfsz (f : Byte) (a : Bank) : Laws.Packing.Statement (.tfsz f a) := by
  obtain ⟨h, h1, h2⟩ := pack_fa f a
  exact ⟨h, by simp only [Instr.op, Instr.operands, Op.unpack, h1, h2]⟩

theorem Laws.Packing.xorf (f : Byte) (d : Dest) (a : Bank) : Laws.Packing.Statement (.xorf f d a) := by
  obtain ⟨h, h1, h2, h3⟩ := pack_fda f d a
  exact ⟨h, by simp only [Instr.op, Instr.operands, Op.unpack, h1, h2, h3]⟩

theorem Laws.Packing.xorl (k : Byte) : Laws.Packing.Statement (.xorl k) := by
  obtain ⟨h, h1⟩ := pack_k8 k
  exact ⟨h, by simp only [Instr.op, Instr.operands, Op.unpack, h1]⟩

theorem Laws.Packing.call (n : ProgAddr) (s : Bool) : Laws.Packing.Statement (.call n s) := by
  obtain ⟨h, h1, h2⟩ := pack_n14s n s
  exact ⟨h, by simp only [Instr.op, Instr.operands, Op.unpack, h1, h2]⟩

theorem Laws.Packing.cwdt : Laws.Packing.Statement .cwdt := ⟨by decide, rfl⟩

theorem Laws.Packing.idle : Laws.Packing.Statement .idle := ⟨by decide, rfl⟩

theorem Laws.Packing.jc (n : BitVec 8) : Laws.Packing.Statement (.jc n) := by
  obtain ⟨h, h1⟩ := pack_k8 n
  exact ⟨h, by simp only [Instr.op, Instr.operands, Op.unpack, h1]⟩

theorem Laws.Packing.jmp (n : ProgAddr) : Laws.Packing.Statement (.jmp n) := by
  obtain ⟨h, h1⟩ := pack_n14 n
  exact ⟨h, by simp only [Instr.op, Instr.operands, Op.unpack, h1]⟩

theorem Laws.Packing.jn (n : BitVec 8) : Laws.Packing.Statement (.jn n) := by
  obtain ⟨h, h1⟩ := pack_k8 n
  exact ⟨h, by simp only [Instr.op, Instr.operands, Op.unpack, h1]⟩

theorem Laws.Packing.jnc (n : BitVec 8) : Laws.Packing.Statement (.jnc n) := by
  obtain ⟨h, h1⟩ := pack_k8 n
  exact ⟨h, by simp only [Instr.op, Instr.operands, Op.unpack, h1]⟩

theorem Laws.Packing.jnn (n : BitVec 8) : Laws.Packing.Statement (.jnn n) := by
  obtain ⟨h, h1⟩ := pack_k8 n
  exact ⟨h, by simp only [Instr.op, Instr.operands, Op.unpack, h1]⟩

theorem Laws.Packing.jno (n : BitVec 8) : Laws.Packing.Statement (.jno n) := by
  obtain ⟨h, h1⟩ := pack_k8 n
  exact ⟨h, by simp only [Instr.op, Instr.operands, Op.unpack, h1]⟩

theorem Laws.Packing.jnz (n : BitVec 8) : Laws.Packing.Statement (.jnz n) := by
  obtain ⟨h, h1⟩ := pack_k8 n
  exact ⟨h, by simp only [Instr.op, Instr.operands, Op.unpack, h1]⟩

theorem Laws.Packing.jo (n : BitVec 8) : Laws.Packing.Statement (.jo n) := by
  obtain ⟨h, h1⟩ := pack_k8 n
  exact ⟨h, by simp only [Instr.op, Instr.operands, Op.unpack, h1]⟩

theorem Laws.Packing.jz (n : BitVec 8) : Laws.Packing.Statement (.jz n) := by
  obtain ⟨h, h1⟩ := pack_k8 n
  exact ⟨h, by simp only [Instr.op, Instr.operands, Op.unpack, h1]⟩

theorem Laws.Packing.nop : Laws.Packing.Statement .nop := ⟨by decide, rfl⟩

theorem Laws.Packing.pop : Laws.Packing.Statement .pop := ⟨by decide, rfl⟩

theorem Laws.Packing.rcall (n : BitVec 11) : Laws.Packing.Statement (.rcall n) := by
  obtain ⟨h, h1⟩ := pack_rel11 n
  exact ⟨h, by simp only [Instr.op, Instr.operands, Op.unpack, h1]⟩

theorem Laws.Packing.ret (s : Bool) : Laws.Packing.Statement (.ret s) := by
  obtain ⟨h, h1⟩ := pack_s s
  exact ⟨h, by simp only [Instr.op, Instr.operands, Op.unpack, h1]⟩

theorem Laws.Packing.reti (s : Bool) : Laws.Packing.Statement (.reti s) := by
  obtain ⟨h, h1⟩ := pack_s s
  exact ⟨h, by simp only [Instr.op, Instr.operands, Op.unpack, h1]⟩

theorem Laws.Packing.rj (n : BitVec 11) : Laws.Packing.Statement (.rj n) := by
  obtain ⟨h, h1⟩ := pack_rel11 n
  exact ⟨h, by simp only [Instr.op, Instr.operands, Op.unpack, h1]⟩

theorem Laws.Packing.slp : Laws.Packing.Statement .slp := ⟨by decide, rfl⟩

theorem Laws.Packing.bcf (f : Byte) (b : BitVec 3) (a : Bank) : Laws.Packing.Statement (.bcf f b a) := by
  obtain ⟨h, h1, h2, h3⟩ := pack_fba f b a
  exact ⟨h, by simp only [Instr.op, Instr.operands, Op.unpack, h1, h2, h3]⟩

theorem Laws.Packing.bsf (f : Byte) (b : BitVec 3) (a : Bank) : Laws.Packing.Statement (.bsf f b a) := by
  obtain ⟨h, h1, h2, h3⟩ := pack_fba f b a
  exact ⟨h, by simp only [Instr.op, Instr.operands, Op.unpack, h1, h2, h3]⟩

theorem Laws.Packing.btgf (f : Byte) (b : BitVec 3) (a : Bank) : Laws.Packing.Statement (.btgf f b a) := by
  obtain ⟨h, h1, h2, h3⟩ := pack_fba f b a
  exact ⟨h, by simp only [Instr.op, Instr.operands, Op.unpack, h1, h2, h3]⟩

theorem Laws.Packing.btss (f : Byte) (b : BitVec 3) (a : Bank) : Laws.Packing.Statement (.btss f b a) := by
  obtain ⟨h, h1, h2, h3⟩ := pack_fba f b a
  exact ⟨h, by simp only [Instr.op, Instr.operands, Op.unpack, h1, h2, h3]⟩

theorem Laws.Packing.btsz (f : Byte) (b : BitVec 3) (a : Bank) : Laws.Packing.Statement (.btsz f b a) := by
  obtain ⟨h, h1, h2, h3⟩ := pack_fba f b a
  exact ⟨h, by simp only [Instr.op, Instr.operands, Op.unpack, h1, h2, h3]⟩

theorem Laws.Packing.mvlp (k : ProgAddr) : Laws.Packing.Statement (.mvlp k) := by
  obtain ⟨h, h1⟩ := pack_n14 k
  exact ⟨h, by simp only [Instr.op, Instr.operands, Op.unpack, h1]⟩

theorem Laws.Packing.tblr : Laws.Packing.Statement .tblr := ⟨by decide, rfl⟩

theorem Laws.Packing.tblrInc : Laws.Packing.Statement .tblrInc := ⟨by decide, rfl⟩

end Sys2Proof
end

