-- ==== Sys2Proof/Laws/Realise.lean ====
section
/-! SUPPORT. What the decoder answers, and that `Encoding` leaves no `Cfg.encode` out: every map from instructions
to words that has the right lengths and is injective (`30` R100, `92` D1) is the encoder of a sound `Encoding`. -/

namespace Sys2Proof

/-! ## What the table reads -/

theorem Op.unpack_op (o : Op) (v : Nat) : (o.unpack v).op = o := by cases o <;> rfl

/-- A row reads only instructions of its form with operands in range. -/
theorem decodeBits_ok {r : EncRow} {n : Nat} {i : Instr} (h : decodeBits r n = .ok i) :
    r.image (pickBits r.places n) = n ∧ i = r.op.unpack (pickBits r.places n) ∧ i.wf = true := by
  unfold decodeBits at h
  split at h
  · next hn =>
    dsimp only at h
    split at h
    · next hw =>
      cases h
      exact ⟨hn, rfl, hw⟩
    · cases h
  · cases h

theorem decodeBits_words {r : EncRow} {n : Nat} {i : Instr} (h : decodeBits r n = .ok i) : i.words = r.op.words := by
  obtain ⟨-, rfl, -⟩ := decodeBits_ok h
  simp [Instr.words, Op.unpack_op]

/-- The table reads only instructions with operands in range, from exactly their words. -/
theorem readRows_ok {enc : Encoding} {ws : List Word} {i : Instr} (h : enc.readRows ws = .ok i) :
    i.wf = true ∧ ws.length = i.words := by
  unfold Encoding.readRows at h
  split at h
  · cases h
  · split at h
    · cases h
    · split at h
      · next h1 => exact ⟨(decodeBits_ok h).2.2, by rw [decodeBits_words h, h1]; rfl⟩
      · cases h
  · split at h
    · cases h
    · split at h
      · next h1 => exact ⟨(decodeBits_ok h).2.2, by rw [decodeBits_words h, h1.1, h1.2]; rfl⟩
      · cases h

theorem isListed_iff {enc : Encoding} {i : Instr} : enc.isListed i = true ↔ i ∈ enc.listed.map (·.1) := by
  simp [Encoding.isListed]

/-- A listed instruction's image is the listed one. -/
theorem encode_listed {enc : Encoding} (hn : (enc.listed.map (·.1)).Nodup) {i : Instr} {ws : List Word}
    (h : (i, ws) ∈ enc.listed) : encode enc i = ws := by
  have hs : (enc.listed.find? (fun p => decide (p.1 = i))).isSome := by
    rw [List.find?_isSome]
    exact ⟨_, h, by simp⟩
  obtain ⟨p, hp⟩ := Option.isSome_iff_exists.mp hs
  have hi : p.1 = i := by simpa using List.find?_some hp
  have : p = (i, ws) := List.inj_on_of_nodup_map hn (List.mem_of_find?_eq_some hp) h hi
  simp [encode, hp, this]

/-! ## Every instruction is in one list -/

/-- Every instruction's operands fit its format and unpack to it. -/
theorem packing_of_every_instr (i : Instr) : Laws.Packing.Statement i := by
  cases i with
  | addc x y z => exact Laws.Packing.addc x y z
  | addf x y z => exact Laws.Packing.addf x y z
  | addl x => exact Laws.Packing.addl x
  | andf x y z => exact Laws.Packing.andf x y z
  | andl x => exact Laws.Packing.andl x
  | arlc x y z => exact Laws.Packing.arlc x y z
  | arrc x y z => exact Laws.Packing.arrc x y z
  | clrf x y => exact Laws.Packing.clrf x y
  | comf x y z => exact Laws.Packing.comf x y z
  | cpse x y => exact Laws.Packing.cpse x y
  | cpsg x y => exact Laws.Packing.cpsg x y
  | cpsl x y => exact Laws.Packing.cpsl x y
  | dcf x y z => exact Laws.Packing.dcf x y z
  | dcsuz x y z => exact Laws.Packing.dcsuz x y z
  | dcsz x y z => exact Laws.Packing.dcsz x y z
  | inf x y z => exact Laws.Packing.inf x y z
  | insuz x y z => exact Laws.Packing.insuz x y z
  | insz x y z => exact Laws.Packing.insz x y z
  | iorf x y z => exact Laws.Packing.iorf x y z
  | iorl x => exact Laws.Packing.iorl x
  | lbsr x => exact Laws.Packing.lbsr x
  | ldpr x y => exact Laws.Packing.ldpr x y
  | mulf x y => exact Laws.Packing.mulf x y
  | mull x => exact Laws.Packing.mull x
  | mvf x y z => exact Laws.Packing.mvf x y z
  | mvff x y => exact Laws.Packing.mvff x y
  | mvl x => exact Laws.Packing.mvl x
  | retl x => exact Laws.Packing.retl x
  | rlf x y z => exact Laws.Packing.rlf x y z
  | rlfc x y z => exact Laws.Packing.rlfc x y z
  | rrf x y z => exact Laws.Packing.rrf x y z
  | rrfc x y z => exact Laws.Packing.rrfc x y z
  | setf x y => exact Laws.Packing.setf x y
  | subc x y z => exact Laws.Packing.subc x y z
  | subf x y z => exact Laws.Packing.subf x y z
  | subl x => exact Laws.Packing.subl x
  | swpf x y z => exact Laws.Packing.swpf x y z
  | tfsz x y => exact Laws.Packing.tfsz x y
  | xorf x y z => exact Laws.Packing.xorf x y z
  | xorl x => exact Laws.Packing.xorl x
  | call x y => exact Laws.Packing.call x y
  | cwdt => exact Laws.Packing.cwdt
  | idle => exact Laws.Packing.idle
  | jc x => exact Laws.Packing.jc x
  | jmp x => exact Laws.Packing.jmp x
  | jn x => exact Laws.Packing.jn x
  | jnc x => exact Laws.Packing.jnc x
  | jnn x => exact Laws.Packing.jnn x
  | jno x => exact Laws.Packing.jno x
  | jnz x => exact Laws.Packing.jnz x
  | jo x => exact Laws.Packing.jo x
  | jz x => exact Laws.Packing.jz x
  | nop => exact Laws.Packing.nop
  | pop => exact Laws.Packing.pop
  | rcall x => exact Laws.Packing.rcall x
  | ret x => exact Laws.Packing.ret x
  | reti x => exact Laws.Packing.reti x
  | rj x => exact Laws.Packing.rj x
  | slp => exact Laws.Packing.slp
  | bcf x y z => exact Laws.Packing.bcf x y z
  | bsf x y z => exact Laws.Packing.bsf x y z
  | btgf x y z => exact Laws.Packing.btgf x y z
  | btss x y z => exact Laws.Packing.btss x y z
  | btsz x y z => exact Laws.Packing.btsz x y z
  | mvlp x => exact Laws.Packing.mvlp x
  | tblr => exact Laws.Packing.tblr
  | tblrInc => exact Laws.Packing.tblrInc

/-- The well-formed instructions, each once. -/
def wellFormedInstrs : List Instr :=
  ((Encoding.rowsWf.allOps.flatMap fun o => (List.range (2 ^ o.format.width)).map o.unpack).filter
    (fun i => i.wf)).dedup

theorem mem_wellFormedInstrs {i : Instr} : i ∈ wellFormedInstrs ↔ i.wf = true := by
  unfold wellFormedInstrs
  rw [List.mem_dedup, List.mem_filter]
  refine ⟨fun h => h.2, fun h => ⟨?_, h⟩⟩
  obtain ⟨hlt, hun⟩ := packing_of_every_instr i
  refine List.mem_flatMap.mpr ⟨i.op, ?_, List.mem_map.mpr ⟨i.operands, List.mem_range.mpr hlt, hun⟩⟩
  generalize i.op = o
  cases o <;> decide

/-! ## Every admissible `Cfg.encode` -/

/-- The encoding that lists the given instructions with their images under `f`. -/
def Encoding.listing (l : List Instr) (f : Instr → List Word) : Encoding where
  rows := defaultEncoding.rows
  listed := l.map fun i => (i, f i)

/-- The encoding that lists every instruction with its image under `f`. -/
def Encoding.ofMap (f : Instr → List Word) : Encoding := Encoding.listing wellFormedInstrs f

@[simp] theorem listing_keys (l : List Instr) (f : Instr → List Word) : (Encoding.listing l f).listed.map (·.1) = l := by
  simp [Encoding.listing, Function.comp_def]

@[simp] theorem listing_images (l : List Instr) (f : Instr → List Word) :
    (Encoding.listing l f).listed.map (·.2) = l.map f := by
  simp [Encoding.listing, Function.comp_def]

theorem listing_rowsWf (l : List Instr) (f : Instr → List Word) : (Encoding.listing l f).rowsWf = true :=
  (by decide : defaultEncoding.rowsWf = true)

/-- Listing all the well-formed instructions, each once, with a map of the right lengths that is injective on them. -/
theorem listing_spec {l : List Instr} {f : Instr → List Word} (hn : l.Nodup) (hm : ∀ i : Instr, i ∈ l ↔ i.wf = true)
    (hl : ∀ i : Instr, i.wf = true → (f i).length = i.words)
    (hf : ∀ i j : Instr, i.wf = true → j.wf = true → f i = f j → i = j) :
    (Encoding.listing l f).wf = true ∧ ∀ i : Instr, i.wf = true → encode (Encoding.listing l f) i = f i := by
  have hk : ((Encoding.listing l f).listed.map (·.1)).Nodup := by rwa [listing_keys]
  refine ⟨?_, fun i hi => encode_listed hk (List.mem_map.mpr ⟨i, (hm i).mpr hi, rfl⟩)⟩
  have hv : ((Encoding.listing l f).listed.map (·.2)).Nodup := by
    rw [listing_images]
    exact hn.map_on fun i hi j hj => hf i j ((hm i).mp hi) ((hm j).mp hj)
  unfold Encoding.wf Encoding.listedWf
  rw [listing_rowsWf]
  simp only [Bool.true_and, Bool.and_eq_true, decide_eq_true_eq, List.all_eq_true]
  refine ⟨⟨hk, hv⟩, fun p hp => ?_⟩
  obtain ⟨i, hi, rfl⟩ := List.mem_map.mp hp
  refine ⟨⟨(hm i).mp hi, hl i ((hm i).mp hi)⟩, ?_⟩
  split
  · next j hj => exact isListed_iff.mpr (by rw [listing_keys]; exact (hm j).mpr (readRows_ok hj).1)
  · rfl

/-- Every map of the right lengths that is injective on instructions is the encoder of a sound `Encoding`: the
spec's assumption on `Cfg.encode` (`30` R100, `92` D1) and the model's admit the same maps. -/
theorem ofMap_spec {f : Instr → List Word} (hl : ∀ i : Instr, i.wf = true → (f i).length = i.words)
    (hf : ∀ i j : Instr, i.wf = true → j.wf = true → f i = f j → i = j) :
    (Encoding.ofMap f).wf = true ∧ ∀ i : Instr, i.wf = true → encode (Encoding.ofMap f) i = f i :=
  listing_spec (List.nodup_dedup _) (fun _ => mem_wellFormedInstrs) hl hf

end Sys2Proof
end

