-- ==== Sys2Proof/Laws/Run.lean ====
section
/-! SUPPORT. A final state repeats itself (`70` R463), and what a run of bounded length can come to. -/

namespace Sys2Proof.Machine

/-- `t` is `s` but for the schedule and what is no architectural state of the instruction stream: the tick and
the watchdog counter. -/
def Repeats (s t : State) : Prop := t = { s with inputs := s.inputs.tail, tick := t.tick, wdt := t.wdt }

/-- A self-jump is a JMP to the PC or an RJ with n = -1. -/
theorem atSelfJump_cases {s : State} (h : atSelfJump s = true) :
    fetchAt s s.pc.toNat = .ok (.jmp s.pc) ∨ fetchAt s s.pc.toNat = .ok (.rj (-1)) := by
  unfold atSelfJump at h
  split at h
  · next hf => exact .inl (by rw [hf, eq_of_beq h])
  · next hf => exact .inr (by rw [hf, eq_of_beq h])
  · cases h
  · cases h

/-- No event of the schedule disturbs the state: neither does what arrives now, nor anything later. -/
theorem undisturbed_cases {s : State} (h : undisturbed s = true) :
    disturbs s (inputNow s) = false ∧ s.inputs.tail.all (fun e => !disturbs s e) = true := by
  unfold undisturbed at h
  unfold inputNow
  cases hi : s.inputs with
  | nil => cases hr : s.run <;> simp [disturbs, EnvInput.quiet, hr]
  | cons e es =>
    rw [hi] at h
    simpa using h

/-- The two states in which a run has ended. -/
theorem runEnded_cases {s : State} (h : runEnded s = true) :
    s.wdtStuck = false ∧ undisturbed s = true ∧
      (s.run ≠ .running ∨ s.run = .running ∧ s.pcPast = false ∧ atSelfJump s = true) := by
  unfold runEnded at h
  cases hr : s.run <;> simp_all

/-- Being ended does not depend on the tick, the watchdog counter or what of the schedule is used up. -/
theorem runEnded_of_repeats {s t : State} (ht : Repeats s t) (h : runEnded s = true) : runEnded t = true := by
  obtain ⟨-, hu, -⟩ := runEnded_cases h
  have hu := (undisturbed_cases hu).2
  rw [ht]
  unfold runEnded at h ⊢
  simp only [Bool.and_eq_true] at h ⊢
  exact ⟨⟨h.1.1, hu⟩, h.2⟩

/-- The step of a state that jumps to itself. -/
theorem selfJump_step {s : State} (hw : s.wdtStuck = false) (hd : disturbs s (inputNow s) = false)
    (hr : s.run = .running) (hp : s.pcPast = false) (hj : atSelfJump s = true) : ∃ t, step s = .next t ∧ Repeats s t := by
  simp only [disturbs, hr, Bool.or_eq_false_iff] at hd
  have hs : step s = runInstr s := by simp [step, hw, hd.1.1, hd.1.2, hr, hd.2]
  rcases atSelfJump_cases hj with hf | hf
  · refine ⟨setPc (beginStep s) s.pc, by simp [hs, runInstr, hp, hf, exec, execJmp], ?_⟩
    simp [Repeats, setPc, beginStep, hp]
  · have hback : relTarget (advance (beginStep s) 1) (-1 : BitVec 11) = s.pc := by
      have h1 : ((-1 : BitVec 11).signExtend 14) = -1 := by decide
      simp only [relTarget, advance, beginStep, h1]
      bv_omega
    refine ⟨setPc (advance (beginStep s) 1) s.pc, ?_, ?_⟩
    · simp only [hs, runInstr, hp, hf, exec, execRj, hback, Bool.false_eq_true, if_false]
    · simp [Repeats, setPc, advance, beginStep, hp]

/-- The step of a halted state that nothing wakes. -/
theorem halted_step {s : State} (hw : s.wdtStuck = false) (hd : disturbs s (inputNow s) = false)
    (hr : s.run ≠ .running) : ∃ t, step s = .next t ∧ Repeats s t := by
  refine ⟨{ s with inputs := s.inputs.tail }, ?_, rfl⟩
  cases hk : s.run with
  | running => exact absurd hk hr
  | idle | sleeping =>
    simp only [disturbs, hk, Bool.or_eq_false_iff] at hd
    simp [step, haltedStep, hw, hd.1.1, hd.1.2, hk, hd.2.1, hd.2.2]

/-- A state in which the run has ended is final: every step from it repeats it (`70` R463). -/
theorem runEnded_step {s : State} (h : runEnded s = true) :
    ∃ t, step s = .next t ∧ Repeats s t ∧ runEnded t = true := by
  obtain ⟨hw, hu, hc⟩ := runEnded_cases h
  have hd := (undisturbed_cases hu).1
  obtain ⟨t, ht, hrep⟩ : ∃ t, step s = .next t ∧ Repeats s t := by
    rcases hc with hr | ⟨hr, hp, hj⟩
    · exact halted_step hw hd hr
    · exact selfJump_step hw hd hr hp hj
  exact ⟨t, ht, hrep, runEnded_of_repeats hrep h⟩

theorem finalState_eq {s t : State} (h : finalState s = some t) : t = s ∧ runEnded s = true := by
  unfold finalState at h
  split at h
  · next he => exact ⟨(Option.some.inj h).symm, he⟩
  · cases h

/-- A step first, then the rest of the way. -/
theorem reaches_head {s t u : State} (h : step s = .next t) (hr : Reaches t u) : Reaches s u := by
  induction hr with
  | here => exact .step .here h
  | step _ hs ih => exact .step ih hs

/-- A run's final state is reached from its start, and the run has ended there. -/
theorem runFor_final {n : Nat} {s t : State} (h : runFor n s = .final t) : Reaches s t ∧ runEnded t = true := by
  induction n generalizing s with
  | zero =>
    unfold runFor at h
    split at h
    · next hf =>
      cases h
      obtain ⟨rfl, he⟩ := finalState_eq hf
      exact ⟨.here, he⟩
    · cases h
  | succ n ih =>
    unfold runFor at h
    split at h
    · next hf =>
      cases h
      obtain ⟨rfl, he⟩ := finalState_eq hf
      exact ⟨.here, he⟩
    · split at h
      · next hs => exact ⟨reaches_head hs (ih h).1, (ih h).2⟩
      · cases h
      · cases h

end Sys2Proof.Machine
end

