-- ==== Sys2Proof/Tests/Slice0.lean ====
section
/-! SUPPORT. The model's own tests: the well-formedness smoke, decoding by written-out words of the default
product's table, one or two steps per instruction with results from `spec/95_test_vectors.md` and the rules'
examples, and for every statement with hypotheses a witness that meets them. -/

namespace Sys2Proof.Tests

open Sys2Proof.Machine Sys2Proof.Claims

/-! ## Well-formedness: an ill-formed term for each check -/

theorem test_wf_refuses_ldpr_above_4ff : (Instr.ldpr 0x500 .fsr0).wf = false := by decide
theorem test_wf_refuses_mvff_source_above_4ff : (Instr.mvff 0x500 0x070).wf = false := by decide
theorem test_wf_refuses_mvff_target_above_4ff : (Instr.mvff 0x070 0x500).wf = false := by decide
theorem test_wf_admits_bounds : (Instr.ldpr 0x4FF .fsr1).wf = true ∧ (Instr.mvff 0x4FF 0x4FF).wf = true := by decide
theorem test_decode_refuses_ill_formed :
    decode defaultEncoding [0xE802, 0x0500] = .error .operandOutOfRange ∧
    decode defaultEncoding [0xE842, 0x8500] = .error .operandOutOfRange := by decide
theorem test_decode_refuses_unassigned :
    decode defaultEncoding [0xFFFF] = .error .noRow ∧ decode defaultEncoding [] = .error .noWord ∧
    decode defaultEncoding [0xE800] = .error .noSecondWord ∧
    decode defaultEncoding [0xE801, 0x4000] = .error .secondWordMismatch := by decide

/-! ## Decoding: every form's word, written out from the default product's table -/

theorem test_decode_fda_arithmetic :
    [0x6080, 0x6580, 0x6B70, 0x6C80, 0x7180, 0x7480, 0x7980, 0x7C80, 0x8180, 0x8480, 0x8A70].map (decodeTableWord 16) =
    [.addc 0x80 .w .zero, .addf 0x80 .f .zero, .andf 0x70 .f .bsr, .arlc 0x80 .w .zero, .arrc 0x80 .f .zero,
      .comf 0x80 .w .zero, .dcf 0x80 .f .zero, .dcsuz 0x80 .w .zero, .dcsz 0x80 .f .zero, .inf 0x80 .w .zero,
      .insuz 0x70 .w .bsr].map (some ·) := by decide
theorem test_decode_fda_rest :
    [0x8D80, 0x9080, 0x9580, 0x9B70, 0x9C80, 0xA180, 0xA480, 0xA97F, 0xAC80, 0xB180, 0xB7FF].map (decodeTableWord 16) =
    [.insz 0x80 .f .zero, .iorf 0x80 .w .zero, .mvf 0x80 .f .zero, .rlf 0x70 .f .bsr, .rlfc 0x80 .w .zero,
      .rrf 0x80 .f .zero, .rrfc 0x80 .w .zero, .subc 0x7F .f .zero, .subf 0x80 .w .zero, .swpf 0x80 .f .zero,
      .xorf 0xFF .f .bsr].map (some ·) := by decide
theorem test_decode_fa :
    [0xB880, 0xBB80, 0xBC80, 0xBF80, 0xC17F, 0xC280, 0xC5FF].map (decodeTableWord 16) =
    [.clrf 0x80 .zero, .cpse 0x80 .bsr, .cpsg 0x80 .zero, .cpsl 0x80 .bsr, .mulf 0x7F .bsr, .setf 0x80 .zero,
      .tfsz 0xFF .bsr].map (some ·) := by decide
theorem test_decode_fba :
    [0x1280, 0x2A80, 0x3780, 0x4F80, 0x5080].map (decodeTableWord 16) =
    [.bcf 0x80 2 .zero, .bsf 0x80 2 .bsr, .btgf 0x80 7 .zero, .btss 0x80 7 .bsr, .btsz 0x80 0 .zero].map (some ·) := by
  decide
theorem test_decode_literals :
    [0xC60F, 0xC7A0, 0xC855, 0xC9FF, 0xCAFF, 0xCB55, 0xCC7F, 0xCD55, 0xE927].map (decodeTableWord 16) =
    [.addl 0x0F, .andl 0xA0, .iorl 0x55, .mull 0xFF, .mvl 0xFF, .retl 0x55, .subl 0x7F, .xorl 0x55, .lbsr 7].map
      (some ·) := by decide
theorem test_decode_jumps :
    [0xCE01, 0xCF80, 0xD0FF, 0xD100, 0xD201, 0xD302, 0xD403, 0xD504, 0xDFFF, 0xE400].map (decodeTableWord 16) =
    [.jc 1, .jn 0x80, .jnc 0xFF, .jnn 0, .jno 1, .jnz 2, .jo 3, .jz 4, .rcall 0x7FF, .rj 0x400].map (some ·) := by
  decide
theorem test_decode_no_operand :
    [0xE900, 0xE901, 0xE902, 0xE903, 0xE904, 0xE905, 0xE906, 0xE910, 0xE911, 0xE912, 0xE913].map (decodeTableWord 16) =
    [.cwdt, .idle, .nop, .pop, .slp, .tblr, .tblrInc, .ret false, .ret true, .reti false, .reti true].map (some ·) := by
  decide
theorem test_decode_two_words :
    [0x3FFFE800, 0x4010E800, 0x3FFFE801, 0x017FE802, 0x0C7FE802, 0x1FF0E803, 0x8B80E84B].map (decodeTableWord 32) =
    [.call 0x3FFF false, .call 0x0010 true, .jmp 0x3FFF, .ldpr 0x17F .fsr0, .ldpr 0x47F .fsr1, .mvlp 0x1FF0,
      .mvff 0x380 0x171].map (some ·) := by decide
/-- An encoding that is no opcode table: NOP and JMP 1234H have images of their own, one a prefix of the other. -/
def oddEncoding : Encoding := { defaultEncoding with listed := [(.nop, [0xFFFF]), (.jmp 0x1234, [0xFFFF, 0xE902])] }
theorem test_listed_images :
    oddEncoding.wf = true ∧ oddEncoding.decodeImage [0xFFFF] = .ok .nop ∧
    oddEncoding.decodeImage [0xFFFF, 0xE902] = .ok (.jmp 0x1234) ∧ oddEncoding.decodeImage [0xE902] = .error .noRow ∧
    oddEncoding.decodeImage [0xE801, 0x1235] = .ok (.jmp 0x1235) ∧ encode oddEncoding .nop = [0xFFFF] := by decide
/-- The image of ADDL 0 is taken from the table, so the list may not give it to NOP. -/
theorem test_unsound_list :
    Encoding.wf { defaultEncoding with listed := [(.nop, [0xC600])] } = false ∧
    Encoding.wf { defaultEncoding with listed := [(.nop, [0xFFFF, 0xFFFF])] } = false ∧
    Encoding.wf { defaultEncoding with listed := [(.nop, [0xC600]), (.addl 0, [0xE902])] } = true := by decide
theorem test_encode_call : encode defaultEncoding (.call 0x1234 true) = [0xE800, 0x5234] := by decide

/-! ## One step on a small state -/

/-- C, DC, N, OV, Z as the digits of a binary numeral. -/
def flagsOf (n : Nat) : Flags :=
  { c := n.testBit 4, dc := n.testBit 3, n := n.testBit 2, ov := n.testBit 1, z := n.testBit 0 }

/-- A state with W, the flags, BSRCN = 1 and one data cell. -/
def cpu (w : Byte) (fl : Nat) (a : Nat) (x : Byte) : State :=
  { State.reset with w, status := flagsOf fl, bsrcn := 1, mem := [(a, x)] }

/-- W, the flags, the cell and the PC an outcome shows. -/
def seen (o : Out) (a : DataAddr) : Option (Byte × Flags × Option Byte × Nat) :=
  match o with
  | .next t => some (t.w, t.status, dmRead t a, t.pc.toNat)
  | .fault _ | .refused _ => none

/-- A next state's answer to a question. -/
def ask {α : Type} (o : Out) (g : State → α) : Option α :=
  match o with
  | .next t => some (g t)
  | .fault _ | .refused _ => none

-- Part A of `95`: A-ADDC-1, A-ADDC-2, A-ADDF-3, A-ANDF-1, A-ANDF-2.
theorem test_addc_to_w : seen (exec (.addc 0x80 .w .zero) (cpu 0x01 0 0x080 0x1F)) 0x080 =
    some (0x20, flagsOf 0b01000, some 0x1F, 1) := by decide
theorem test_addc_carry_in_banked : seen (exec (.addc 0x70 .f .bsr) (cpu 0x01 0b10000 0x170 0x0E)) 0x170 =
    some (0x01, flagsOf 0b01000, some 0x10, 1) := by decide
theorem test_addf_banked : seen (exec (.addf 0x70 .f .bsr) (cpu 0x01 0 0x170 0x1F)) 0x170 =
    some (0x01, flagsOf 0b01000, some 0x20, 1) := by decide
theorem test_addf_signed_overflow : seen (exec (.addf 0x80 .w .zero) (cpu 0x80 0 0x080 0x80)) 0x080 =
    some (0x00, flagsOf 0b10011, some 0x80, 1) := by decide
theorem test_andf_zero : seen (exec (.andf 0x80 .w .zero) (cpu 0x55 0b11010 0x080 0xAA)) 0x080 =
    some (0x00, flagsOf 0b11011, some 0xAA, 1) := by decide
-- A-ARLC-1, A-ARLC-3, A-ARRC-1, A-ARRC-2; the corner cases of `40` R206, R207, R208.
theorem test_arlc_overflow : seen (exec (.arlc 0x80 .f .zero) (cpu 0x0F 0 0x080 0xAA)) 0x080 =
    some (0x0F, flagsOf 0b10010, some 0x54, 1) := by decide
theorem test_arlc_to_zero : seen (exec (.arlc 0x70 .f .bsr) (cpu 0x0F 0 0x170 0x80)) 0x170 =
    some (0x0F, flagsOf 0b10011, some 0x00, 1) := by decide
theorem test_arrc_keeps_bit7 : seen (exec (.arrc 0x80 .f .zero) (cpu 0x0F 0 0x080 0xAA)) 0x080 =
    some (0x0F, flagsOf 0b00100, some 0xD5, 1) := by decide
theorem test_clrf : seen (exec (.clrf 0x80 .zero) (cpu 0x0F 0 0x080 0x55)) 0x080 =
    some (0x0F, flagsOf 0, some 0x00, 1) := by decide
theorem test_comf : seen (exec (.comf 0x80 .w .zero) (cpu 0x55 0 0x080 0xFF)) 0x080 =
    some (0x00, flagsOf 0b00001, some 0xFF, 1) := by decide
theorem test_dcf_overflow : seen (exec (.dcf 0x80 .f .zero) (cpu 0x0F 0 0x080 0x80)) 0x080 =
    some (0x0F, flagsOf 0b10010, some 0x7F, 1) := by decide
theorem test_dcf_borrow : seen (exec (.dcf 0x80 .f .zero) (cpu 0x0F 0b11011 0x080 0x00)) 0x080 =
    some (0x0F, flagsOf 0b00100, some 0xFF, 1) := by decide
theorem test_inf_carry : seen (exec (.inf 0x80 .w .zero) (cpu 0x55 0 0x080 0xFF)) 0x080 =
    some (0x00, flagsOf 0b11001, some 0xFF, 1) := by decide
theorem test_iorf : seen (exec (.iorf 0x80 .w .zero) (cpu 0x55 0 0x080 0xAA)) 0x080 =
    some (0xFF, flagsOf 0b00100, some 0xAA, 1) := by decide
-- The examples of `40` R210 to R218.
theorem test_rlf : seen (exec (.rlf 0x80 .f .zero) (cpu 0x0F 0b10000 0x080 0xAA)) 0x080 =
    some (0x0F, flagsOf 0b10000, some 0x55, 1) := by decide
theorem test_rlfc : seen (exec (.rlfc 0x70 .w .zero) (cpu 0x0F 0 0x070 0xEA)) 0x070 =
    some (0xD4, flagsOf 0b10100, some 0xEA, 1) := by decide
theorem test_rrf : seen (exec (.rrf 0x80 .w .zero) (cpu 0x0F 0 0x080 0x55)) 0x080 =
    some (0xAA, flagsOf 0b00100, some 0x55, 1) := by decide
theorem test_rrfc : seen (exec (.rrfc 0x7F .w .zero) (cpu 0x0F 0b10000 0x07F 0x55)) 0x07F =
    some (0xAA, flagsOf 0b10100, some 0x55, 1) := by decide
theorem test_setf : seen (exec (.setf 0x80 .zero) (cpu 0x0F 0 0x080 0xAA)) 0x080 =
    some (0x0F, flagsOf 0, some 0xFF, 1) := by decide
theorem test_subc_borrow_in : seen (exec (.subc 0x7F .f .zero) (cpu 0x00 0 0x07F 0x80)) 0x07F =
    some (0x00, flagsOf 0b10010, some 0x7F, 1) := by decide
theorem test_subf : seen (exec (.subf 0x7F .f .zero) (cpu 0x01 0 0x07F 0x80)) 0x07F =
    some (0x01, flagsOf 0b10010, some 0x7F, 1) := by decide
theorem test_swpf : seen (exec (.swpf 0x80 .f .zero) (cpu 0x0F 0 0x080 0x5A)) 0x080 =
    some (0x0F, flagsOf 0, some 0xA5, 1) := by decide
theorem test_xorf : seen (exec (.xorf 0x80 .w .zero) (cpu 0xAA 0 0x080 0x55)) 0x080 =
    some (0xFF, flagsOf 0b00100, some 0x55, 1) := by decide
-- f = 02CH is W itself (`40` R219): W doubles; CLRF clears it.
theorem test_addf_wreg : seen (exec (.addf 0x2C .w .zero) (cpu 0x11 0 0x080 0x00)) 0x080 =
    some (0x22, flagsOf 0, some 0x00, 1) := by decide

-- The examples of `41`.
theorem test_addl : seen (exec (.addl 0x0F) (cpu 0x71 0 0 0)) 0 = some (0x80, flagsOf 0b01110, some 0, 1) := by decide
theorem test_andl : seen (exec (.andl 0xA0) (cpu 0x55 0 0 0)) 0 = some (0x00, flagsOf 0b00001, some 0, 1) := by decide
theorem test_iorl : seen (exec (.iorl 0x55) (cpu 0xAA 0 0 0)) 0 = some (0xFF, flagsOf 0b00100, some 0, 1) := by decide
theorem test_subl : seen (exec (.subl 0x7F) (cpu 0xFF 0 0 0)) 0 = some (0x80, flagsOf 0b01110, some 0, 1) := by decide
theorem test_xorl : seen (exec (.xorl 0x55) (cpu 0xAA 0 0 0)) 0 = some (0xFF, flagsOf 0b00100, some 0, 1) := by decide
theorem test_mvl : seen (exec (.mvl 0xFF) (cpu 0x00 1 0 0)) 0 = some (0xFF, flagsOf 1, some 0, 1) := by decide
theorem test_mulf : ask (exec (.mulf 0x7F .bsr) (cpu 0x0F 0 0x17F 0xFF)) (fun t => (t.prodh, t.prodl, t.w)) =
    some (0x0E, 0xF1, 0x0F) := by decide
theorem test_mull : ask (exec (.mull 0xFF) (cpu 0x0F 0 0 0)) (fun t => (t.prodh, t.prodl, t.w)) =
    some (0x0E, 0xF1, 0x0F) := by decide
theorem test_mvf_to_w : seen (exec (.mvf 0x80 .w .zero) (cpu 0x55 1 0x080 0xAA)) 0x080 =
    some (0xAA, flagsOf 1, some 0xAA, 1) := by decide
theorem test_mvf_to_f : seen (exec (.mvf 0x70 .f .bsr) (cpu 0x55 1 0x170 0xAA)) 0x170 =
    some (0x55, flagsOf 1, some 0x55, 1) := by decide
theorem test_mvff_reaches_bank4 : seen (exec (.mvff 0x080 0x4FF) (cpu 0x01 0 0x080 0x55)) 0x4FF =
    some (0x01, flagsOf 0, some 0x55, 2) := by decide
theorem test_lbsr : ask (exec (.lbsr 7) (cpu 0 0 0 0)) (fun t => t.bsrcn) = some 7 := by decide
theorem test_ldpr : ask (exec (.ldpr 0x17F .fsr0) (cpu 0 0 0 0)) (fun t => (t.fsr0h.byte, t.fsr0l, t.fsr1l, t.pc)) =
    some (0x01, 0x7F, 0x00, 2) := by decide
-- LDPR Example 1's last line: with FSR0 = 17FH, a store to INDF0 goes there.
theorem test_indf0_store :
    seen (exec (.mvf 0x01 .f .zero) { cpu 0xAA 0 0x17F 0x55 with fsr0h := { byte := 1, hiOpen := false }, fsr0l := 0x7F })
      0x17F = some (0xAA, flagsOf 0, some 0xAA, 1) := by decide

/-- A program of one-word NOPs at 1 and 4 and a two-word CALL at 2, the PC at `p`. -/
def withProgram (s : State) (p : ProgAddr) : State :=
  { s with
    pc := p
    prog :=
      [ (0, ⟨.first, 0xE902⟩), (1, ⟨.first, 0xE902⟩), (2, ⟨.firstOfTwo, 0xE800⟩), (3, ⟨.second, 0x0000⟩),
        (4, ⟨.first, 0xE902⟩), (5, ⟨.data, 0x5678⟩) ] }

-- The examples of `42` and `44`; the skip over one word goes from 0 to 2, over two words from 1 to 4.
theorem test_cpse_skips : seen (exec (.cpse 0x80 .zero) (withProgram (cpu 0x00 0 0x080 0x00) 0)) 0x080 =
    some (0x00, flagsOf 0, some 0x00, 2) := by decide
theorem test_cpse_stays : seen (exec (.cpse 0x80 .zero) (withProgram (cpu 0x00 0 0x080 0x7F) 0)) 0x080 =
    some (0x00, flagsOf 0, some 0x7F, 1) := by decide
theorem test_cpsg_unsigned : seen (exec (.cpsg 0x80 .zero) (withProgram (cpu 0x7F 0 0x080 0x80) 1)) 0x080 =
    some (0x7F, flagsOf 0, some 0x80, 4) := by decide
theorem test_cpsl_skips : seen (exec (.cpsl 0x80 .zero) (withProgram (cpu 0x05 0 0x080 0x04) 0)) 0x080 =
    some (0x05, flagsOf 0, some 0x04, 2) := by decide
theorem test_cpsl_equal_stays : seen (exec (.cpsl 0x80 .zero) (withProgram (cpu 0x05 0 0x080 0x05) 0)) 0x080 =
    some (0x05, flagsOf 0, some 0x05, 1) := by decide
theorem test_dcsuz_stays_at_zero : seen (exec (.dcsuz 0x80 .f .zero) (withProgram (cpu 0x0F 0 0x080 0x01) 0)) 0x080 =
    some (0x0F, flagsOf 0, some 0x00, 1) := by decide
theorem test_dcsz_skips_at_zero : seen (exec (.dcsz 0x80 .w .zero) (withProgram (cpu 0x0F 0 0x080 0x01) 1)) 0x080 =
    some (0x00, flagsOf 0, some 0x01, 4) := by decide
theorem test_dcsz_wraps : seen (exec (.dcsz 0x80 .f .zero) (withProgram (cpu 0x0F 0 0x080 0x00) 0)) 0x080 =
    some (0x0F, flagsOf 0, some 0xFF, 1) := by decide
theorem test_insuz_skips : seen (exec (.insuz 0x70 .w .bsr) (withProgram (cpu 0x55 0 0x170 0x00) 0)) 0x170 =
    some (0x01, flagsOf 0, some 0x00, 2) := by decide
theorem test_insz_skips : seen (exec (.insz 0x80 .w .zero) (withProgram (cpu 0x0F 0 0x080 0xFF) 0)) 0x080 =
    some (0x00, flagsOf 0, some 0xFF, 2) := by decide
theorem test_tfsz_skips : seen (exec (.tfsz 0x80 .zero) (withProgram (cpu 0x05 0 0x080 0x00) 0)) 0x080 =
    some (0x05, flagsOf 0, some 0x00, 2) := by decide
theorem test_bcf : seen (exec (.bcf 0x80 2 .zero) (cpu 0 0 0x080 0xFF)) 0x080 =
    some (0, flagsOf 0, some 0xFB, 1) := by decide
theorem test_bsf : seen (exec (.bsf 0x80 2 .zero) (cpu 0 0 0x080 0x00)) 0x080 =
    some (0, flagsOf 0, some 0x04, 1) := by decide
theorem test_btgf : seen (exec (.btgf 0x80 7 .zero) (cpu 0 0 0x080 0x7F)) 0x080 =
    some (0, flagsOf 0, some 0xFF, 1) := by decide
theorem test_btss_skips : seen (exec (.btss 0x80 7 .zero) (withProgram (cpu 0 0 0x080 0xFF) 0)) 0x080 =
    some (0, flagsOf 0, some 0xFF, 2) := by decide
theorem test_btsz_stays : seen (exec (.btsz 0x80 7 .zero) (withProgram (cpu 0 0 0x080 0xFF) 0)) 0x080 =
    some (0, flagsOf 0, some 0xFF, 1) := by decide
-- Clearing STKOV clears STKFL too, and leaves STKUN (`60` R401); STKPTR is at 011H in the default product.
theorem test_bcf_stkov_clears_stkfl :
    ask (exec (.bcf 0x11 6 .zero) { State.reset with stkfl := true, stkov := true, stkun := true })
      (fun t => (t.stkfl, t.stkov, t.stkun)) = some (false, false, true) := by decide

-- The examples of `43` and `45`.
theorem test_call : ask (exec (.call 0x0100 true) { cpu 0x12 0b10000 0 0 with pc := 0x20 })
    (fun t => (t.pc, t.sp, tos t, t.wregsdw, t.stasdw.c, t.bsrsdw)) = some (0x100, 1, 0x22, 0x12, true, 1) := by decide
theorem test_call_fills_stack : ask (exec (.call 0x0100 false) { cpu 0 0 0 0 with pc := 0x20, sp := 3 })
    (fun t => (t.sp, t.stkfl, t.stkov)) = some (4, true, false) := by decide
theorem test_rcall : ask (exec (.rcall 0x7FF) { cpu 0 0 0 0 with pc := 0x20 }) (fun t => (t.pc, t.sp, tos t)) =
    some (0x20, 1, 0x21) := by decide
theorem test_ret_shadow : ask (exec (.ret true) { cpu 1 0 0 0 with sp := 2, stk := [5, 7, 0, 0], wregsdw := 0x34 })
    (fun t => (t.pc, t.sp, t.w, t.gie)) = some (7, 1, 0x34, false) := by decide
theorem test_reti_sets_gie : ask (exec (.reti false) { cpu 1 0 0 0 with sp := 1, stk := [5, 7, 0, 0] })
    (fun t => (t.pc, t.sp, t.w, t.gie)) = some (5, 0, 1, true) := by decide
theorem test_retl : ask (exec (.retl 0xAA) { cpu 1 0 0 0 with sp := 1, stk := [5, 7, 0, 0] })
    (fun t => (t.pc, t.sp, t.w)) = some (5, 0, 0xAA) := by decide
theorem test_ret_underflow_resets : ask (exec (.ret false) { cpu 1 0 0 0 with sbmset7 := true, pc := 9 })
    (fun t => (t.pc, t.sp)) = some (0, 0) := by decide
-- The RETL page's table entry: with W = 1 the ADDF of PCLATL goes to the second word after it.
theorem test_computed_jump : ask (exec (.addf 0x13 .f .zero) { cpu 1 0 0 0 with pc := 0x110 }) (fun t => t.pc) =
    some 0x112 := by decide
theorem test_jmp : ask (exec (.jmp 0x3FFF) (cpu 0 0 0 0)) (fun t => t.pc) = some 0x3FFF := by decide
theorem test_rj_backwards_wraps : ask (exec (.rj 0x7FE) (cpu 0 0 0 0)) (fun t => t.pc) = some 0x3FFF := by decide
theorem test_conditional_jumps_taken :
    [exec (.jc 4) (cpu 0 0b10000 0 0), exec (.jnc 4) (cpu 0 0b01111 0 0), exec (.jn 4) (cpu 0 0b00100 0 0),
      exec (.jnn 4) (cpu 0 0b11011 0 0), exec (.jo 4) (cpu 0 0b00010 0 0), exec (.jno 4) (cpu 0 0b11101 0 0),
      exec (.jz 4) (cpu 0 0b00001 0 0), exec (.jnz 4) (cpu 0 0b11110 0 0)].map (ask · (fun t => t.pc.toNat)) =
    List.replicate 8 (some 5) := by decide
theorem test_conditional_jumps_not_taken :
    [exec (.jnc 4) (cpu 0 0b10000 0 0), exec (.jc 4) (cpu 0 0b01111 0 0), exec (.jnn 4) (cpu 0 0b00100 0 0),
      exec (.jn 4) (cpu 0 0b11011 0 0), exec (.jno 4) (cpu 0 0b00010 0 0), exec (.jo 4) (cpu 0 0b11101 0 0),
      exec (.jnz 4) (cpu 0 0b00001 0 0), exec (.jz 4) (cpu 0 0b11110 0 0)].map (ask · (fun t => t.pc.toNat)) =
    List.replicate 8 (some 1) := by decide
theorem test_nop : ask (exec .nop (cpu 0 0 0 0)) (fun t => t.pc) = some 1 := by decide
theorem test_pop : ask (exec .pop { cpu 0 0 0 0 with sp := 3, stk := [0x567, 0x1234, 0x1666, 0] })
    (fun t => (t.sp, tos t)) = some (2, 0x1234) := by decide
theorem test_cwdt : ask (exec .cwdt { cpu 0 0 0 0 with wdt := 7, timeOut := true }) (fun t => (t.wdt, t.timeOut)) =
    some (0, false) := by decide
theorem test_idle : ask (exec .idle (cpu 0 0 0 0)) (fun t => (t.idleb, t.run, t.pd)) = some (true, .idle, false) := by
  decide
theorem test_slp : ask (exec .slp (cpu 0 0 0 0)) (fun t => (t.pd, t.run, t.idleb)) = some (true, .sleeping, false) := by
  decide
theorem test_mvlp : ask (exec (.mvlp 0x1FF0) (cpu 0 0 0 0)) (fun t => (t.tblptrh.byte, t.tblptrl)) =
    some (0x1F, 0xF0) := by decide
theorem test_tblr : ask (exec .tblr { withProgram (cpu 0 0 0 0) 0 with tblptrl := 5 })
    (fun t => (t.tbldh, t.tbldl, t.tblptrl)) = some (0x56, 0x78, 5) := by decide
theorem test_tblr_inc_carries :
    ask (exec .tblrInc { cpu 0 0 0 0 with
      tblptrh := { byte := 0x17, hiOpen := false }, tblptrl := 0xFF, prog := [(0x17FF, ⟨.data, 0x5678⟩)] })
      (fun t => (t.tbldh, t.tbldl, t.tblptrh.byte, t.tblptrl)) = some (0x56, 0x78, 0x18, 0x00) := by decide
-- After a data-space write of TBLPTRH its upper bits read open; `45` R332 then writes q[15:8], whose top bits are 0.
theorem test_tblr_inc_writes_whole_high_byte :
    ask (exec .tblrInc { cpu 0 0 0 0 with tblptrh := { byte := 0x17, hiOpen := true }, tblptrl := 0xFF })
      (fun t => memRead t 0x00B) = some (.ok 0x18) := by decide

/-! ## The end of a run (`70` R463) -/

theorem test_idle_ends_run : (match runFor 2 (State.reset.withFetchWord 16 0xE901) with
    | .final t => some (t.pc, t.idleb)
    | .fault _ | .refused _ | .unfinished _ => none) = some (1, true) := by decide
theorem test_self_jumps_end_run :
    runEnded (State.reset.withFetchWord 32 0x0000E801) = true ∧ runEnded (State.reset.withFetchWord 16 0xE7FF) = true ∧
    runEnded (State.reset.withFetchWord 32 0x0001E801) = false ∧
    runEnded { State.reset.withFetchWord 32 0x0000E801 with gie := true, inputs := [{ EnvInput.quiet with irq := true }] } = false := by
  decide
/-- The NOP runs, and the step after it finds no instruction: the run has no final state. -/
theorem test_refused_run_has_no_final_state :
    runFor 5 (State.reset.withFetchWord 16 0xE902) = .refused (.noInstruction .nothingThere) := by decide

/-! ## The host's interface -/

theorem test_step_runs_withFetchWord : ask (step (State.reset.withFetchWord 16 0xCA55)) (fun t => (t.w, t.pc)) =
    some (0x55, 1) := by decide
theorem test_step_runs_withFetchWord_two_words :
    ask (step (State.reset.withFetchWord 32 0x0123E801)) (fun t => t.pc) = some 0x123 := by decide

/-! ## Witnesses: for each statement with hypotheses, a state and operands that meet them -/

/-- The sound default table (notes/assumptions/2.md), and the sound default product (notes/assumptions/1.md). -/
theorem test_default_product_is_sound : cfgWf defaultCfg = true := by decide
/-- The table, and a list whose images are not prefix-free, which the first clause still covers. -/
theorem witness_DecodeOfEncode :
    defaultEncoding.wf = true ∧ defaultEncoding.listed = [] ∧ (Instr.mvff 0x4FF 0x000).wf = true ∧
    oddEncoding.wf = true ∧ (Instr.jmp 0x1234).wf = true := by decide
theorem witness_EncodeOfDecode :
    decode defaultEncoding [0x1280, 0xFFFF] = .ok (.bcf 0x80 2 .zero, [0xFFFF]) ∧
    oddEncoding.decodeImage [0xFFFF, 0xE902] = .ok (.jmp 0x1234) := by decide
theorem witness_EncodeLengthIsWords : defaultEncoding.wf = true ∧ oddEncoding.wf = true := by decide
theorem witness_DecodedIsWellFormed :
    decode defaultEncoding [0xE802, 0x04FF] = .ok (.ldpr 0x4FF .fsr0, []) ∧
    defaultEncoding.decodeImage [0xE802, 0x04FF] = .ok (.ldpr 0x4FF .fsr0) := by decide

/-- A machine with the program of `withProgram`, at address `p`. -/
def machine (p : ProgAddr) : State := withProgram State.reset p

theorem machine_boundary (p : ProgAddr) : instrBoundary (machine p) :=
  ⟨rfl, rfl, rfl, rfl, fun h => Bool.noConfusion h, fun h => Bool.noConfusion h⟩

/-- NOP at 000H and the two-word CALL at 002H. -/
theorem witness_StepRunsDecodedInstruction :
    instrBoundary (machine 0) ∧ cellRead (machine 0).prog 0 = some ⟨.first, 0xE902⟩ ∧
      (machine 0).cfg.encoding.decodeImage [0xE902] = .ok .nop ∧
      instrBoundary (machine 2) ∧ cellRead (machine 2).prog 2 = some ⟨.firstOfTwo, 0xE800⟩ ∧
      cellRead (machine 2).prog 3 = some ⟨.second, 0⟩ ∧ (machine 2).cfg.progSize = progSpace ∧
      (machine 2).cfg.encoding.decodeImage [0xE800, 0] = .ok (.call 0 false) :=
  ⟨machine_boundary 0, by decide, by decide, machine_boundary 2, by decide, by decide, rfl, by decide⟩
theorem witness_StepRunsPlacedInstruction :
    PlacedAt (machine 2) 2 (.call 0 false) ∧ PlacedAt (machine 0) 0 .nop ∧ cfgWf (machine 0).cfg = true := by
  refine ⟨⟨by decide, ?_⟩, ⟨by decide, ?_⟩, by decide⟩
  · exact ⟨by decide, by decide⟩
  · exact (by decide : cellRead (machine 0).prog 0 = some ⟨.first, 0xE902⟩)
/-- The reset state with one word at 000H and nothing after it. -/
def lone (k : WordKind) (w : Word) : State := { State.reset with prog := [(0, ⟨k, w⟩)] }

/-- One state for each clause: data word at 5, second word at 3, nothing at 6, no row, a JMP whose operand is too
wide, no second word, past the end. -/
theorem witness_StepRefusesWithoutInstruction :
    instrBoundary (machine 5) ∧ cellRead (machine 5).prog 5 = some ⟨.data, 0x5678⟩ ∧
      cellRead (machine 3).prog 3 = some ⟨.second, 0⟩ ∧ cellRead (machine 6).prog 6 = none ∧
      (lone .first 0xFFFF).pc = 0 ∧ cellRead (lone .first 0xFFFF).prog 0 = some ⟨.first, 0xFFFF⟩ ∧
      defaultEncoding.decodeImage [0xFFFF] = .error .noRow ∧
      cellRead (lone .firstOfTwo 0xE800).prog 0 = some ⟨.firstOfTwo, 0xE800⟩ ∧
      secondWordAt (lone .firstOfTwo 0xE800) 0 = none ∧
      secondWordAt { machine 2 with prog := [(2, ⟨.firstOfTwo, 0xE801⟩), (3, ⟨.second, 0x4000⟩)] } 2 = some 0x4000 ∧
      defaultEncoding.decodeImage [0xE801, 0x4000] = .error .secondWordMismatch ∧
      { State.reset with cfg := { defaultCfg with progSize := 4 }, pc := 4 }.cfg.progSize ≤ 4 ∧
      { State.reset with pcPast := true }.pcPast = true :=
  ⟨machine_boundary 5, by decide, by decide, by decide, rfl, rfl, by decide, rfl, by decide, by decide, by decide,
    by decide, rfl⟩

/-- A running machine with interrupts enabled and a request at the boundary; its stack holds `n` entries. -/
def requested (n : Nat) (b : Bool) : State :=
  { machine 0 with gie := true, sp := n, sbmset7 := b, inputs := [{ reset := false, wdt := false, irq := true, wake := false }] }

theorem witness_StepTakesInterrupt :
    EntersInterrupt (requested 3 false) ∧ (requested 3 false).sp < 4 ∧ EntersInterrupt (requested 4 true) ∧
      EntersInterrupt (requested 4 false) ∧ (requested 4 false).cfg.stackDepth ≤ 4 :=
  ⟨⟨rfl, rfl, rfl, .inl rfl⟩, by decide, ⟨rfl, rfl, rfl, .inl rfl⟩, ⟨rfl, rfl, rfl, .inl rfl⟩, by decide⟩

/-- An idle machine of a product that wakes on everything. -/
def idling (irq wake : Bool) : State :=
  { machine 0 with
    run := .idle
    cfg := { defaultCfg with idleWake := { irq := true, other := true } }
    inputs := [{ reset := false, wdt := false, irq, wake }] }

/-- The same, asleep. -/
def asleep (irq wake : Bool) : State :=
  { idling irq wake with run := .sleeping, cfg := { defaultCfg with sleepWake := { irq := true, other := true } } }

/-- An interrupt out of Idle and out of Sleeping. -/
theorem witness_StepTakesInterrupt_halted :
    EntersInterrupt { idling true false with gie := true } ∧ EntersInterrupt { asleep true false with gie := true } :=
  ⟨⟨rfl, rfl, rfl, .inr (.inl ⟨rfl, rfl⟩)⟩, ⟨rfl, rfl, rfl, .inr (.inr ⟨rfl, rfl⟩)⟩⟩
theorem witness_HaltedStepWaitsOrWakes_asleep :
    (asleep false false).run = .sleeping ∧ (inputNow (asleep false false)).wake = false ∧
      (inputNow (asleep true false)).irq = true ∧ (asleep true false).gie = false ∧
      (asleep true false).cfg.sleepWake.irq = true ∧ (inputNow (asleep true false)).reset = false ∧
      (asleep true false).cfg.wdtEnabled = false := by decide
theorem witness_HaltedStepWaitsOrWakes :
    (idling false false).run = .idle ∧ (inputNow (idling false false)).irq = false ∧
      (inputNow (idling true false)).irq = true ∧ (idling true false).gie = false ∧
      (inputNow (idling false true)).wake = true := by decide
theorem witness_WatchdogTimeOutStops :
    (inputNow { machine 0 with
      cfg := { defaultCfg with wdtEnabled := true }
      inputs := [{ reset := false, wdt := true, irq := false, wake := false }] }).wdt = true := by decide
theorem witness_OutsideResetWins :
    (inputNow { machine 0 with inputs := [{ reset := true, wdt := true, irq := true, wake := true }] }).reset = true := by
  decide

/-- A state whose PC is not 000H is no reset state. -/
theorem not_reset_of_pc {t : State} (h : t.pc ≠ 0) : ¬WasReset t := fun ⟨_, e⟩ => h (congrArg State.pc e)

/-- `o` goes on to a state that is no reset state and of which `g` holds. -/
def goesOn (o : Out) (g : State → Bool) : Bool :=
  match o with
  | .next t => t.pc != 0 && g t
  | .fault _ | .refused _ => false

theorem goesOn_spec {o : Out} {g : State → Bool} (h : goesOn o g = true) :
    ∃ t, o = .next t ∧ ¬WasReset t ∧ g t = true := by
  cases o with
  | next t =>
    simp only [goesOn, Bool.and_eq_true, bne_iff_ne, ne_eq] at h
    exact ⟨t, rfl, not_reset_of_pc h.1, h.2⟩
  | fault | refused => exact absurd h (by simp [goesOn])

theorem witness_ResetIsSound : cfgWf { defaultCfg with stackDepth := 7, progSize := 1 } = true := by decide
theorem sound_machine (p : ProgAddr) : (machine p).Sound :=
  ⟨(by decide : cfgWf defaultCfg = true), rfl, (by decide : ProgMemory.wf (machine 0).prog = true), ⟨rfl, Nat.zero_le _⟩, fun _ _ h => absurd h (by simp [machine, withProgram, State.reset, State.resetWith])⟩
theorem witness_StepKeepsSound : (machine 0).Sound ∧ ∃ t, step (machine 0) = .next t ∧ ¬WasReset t ∧ true = true :=
  ⟨sound_machine 0, goesOn_spec (g := fun _ => true) (by decide)⟩
theorem witness_StepKeepsProgram : ∃ t, step (machine 2) = .next t := ⟨_, rfl⟩
/-- RETI from a stack of one entry, and BSF of the GIE bit (015H, bit 7, in the default product). -/
theorem witness_GieRaisedOnlyByRetiOrBitSet :
    (∃ t, step { State.reset.withFetchWord 16 0xE912 with sp := 1, stk := [5, 0, 0, 0] } = .next t ∧ ¬WasReset t ∧ t.gie = true) ∧
    (∃ t, step (State.reset.withFetchWord 16 0x2715) = .next t ∧ ¬WasReset t ∧ t.gie = true) :=
  ⟨goesOn_spec (by decide), goesOn_spec (by decide)⟩
theorem witness_StackPointerMovesByOne :
    stackWf (State.reset.withFetchWord 32 0x0100E800) ∧
    (∃ t, step (State.reset.withFetchWord 32 0x0100E800) = .next t ∧ ¬WasReset t ∧ (t.sp == 1) = true) :=
  ⟨⟨rfl, by decide⟩, goesOn_spec (by decide)⟩
/-- BCF of STKOV (STKPTR at 011H) and of SKERR (Pstatus at 012H). -/
theorem witness_StackFlagsAreSticky :
    (∃ t, step { State.reset.withFetchWord 16 0x1611 with stkfl := true, stkov := true } = .next t ∧ ¬WasReset t ∧ (!t.stkfl) = true) ∧
    (∃ t, step { State.reset.withFetchWord 16 0x1312 with skerr := true } = .next t ∧ ¬WasReset t ∧ (!t.skerr) = true) :=
  ⟨goesOn_spec (by decide), goesOn_spec (by decide)⟩
theorem witness_ShadowsChangeOnlyByCallOrEntry :
    ∃ t, step { State.reset.withFetchWord 32 0x4100E800 with w := 7 } = .next t ∧ ¬WasReset t ∧ (t.wregsdw != 0) = true :=
  goesOn_spec (by decide)
theorem witness_RunningLeftOnlyByIdleOrSleep :
    (∃ t, step (State.reset.withFetchWord 16 0xE901) = .next t ∧ ¬WasReset t ∧ (t.run == .idle && t.idleb) = true) ∧
    (∃ t, step (State.reset.withFetchWord 16 0xE904) = .next t ∧ ¬WasReset t ∧ (t.run == .sleeping && t.pd) = true) :=
  ⟨goesOn_spec (by decide), goesOn_spec (by decide)⟩
theorem witness_StoresOnlyAtDestination :
    (∃ t, exec (.clrf 0xFF .bsr) (cpu 0 0 0x1FF 0x55) = .next t ∧ ¬WasReset t ∧ (dmRead t 0x1FF == some 0) = true) ∧
    WritesAt (cpu 0 0 0x1FF 0x55) (.clrf 0xFF .bsr) 0x1FF :=
  ⟨goesOn_spec (by decide), ⟨_, rfl, rfl⟩⟩
theorem witness_FlagsChangeOnlyByWriters :
    ∃ t, exec (.addl 0xFF) (cpu 0x01 0 0 0) = .next t ∧ ¬WasReset t ∧ (t.status == flagsOf 0b11001) = true :=
  goesOn_spec (by decide)
theorem witness_WChangesOnlyByWriters :
    (∃ t, exec (.mvl 1) (cpu 0 0 0 0) = .next t ∧ ¬WasReset t ∧ (t.w == 1) = true) ∧
    (∃ t, exec (.setf 0x2C .zero) (cpu 0 0 0 0) = .next t ∧ ¬WasReset t ∧ (t.w == 0xFF) = true) :=
  ⟨goesOn_spec (by decide), goesOn_spec (by decide)⟩

/-- For each clause of the file shapes, a state and an operand: a readable cell at the top of a bank, W at 02CH, a
register that takes bytes (PRODH), PCLATL, STATUS, every system register, an absent address, an unwritten cell, an
INDFx that points to itself. -/
def FileWitness : Prop :=
  (memRead (advance (cpu 1 0 0x1FF 0x1F) 1) (effAddr 0xFF .bsr (cpu 1 0 0x1FF 0x1F)) = .ok 0x1F ∧
    resolve (cpu 1 0 0x1FF 0x1F) (effAddr 0xFF .bsr (cpu 1 0 0x1FF 0x1F)) = .ok 0x1FF ∧
    takesByte (targetOf defaultCfg 0x1FF) = true) ∧
  (memRead (advance (cpu 1 0 0 0) 1) (effAddr 0x2C .zero (cpu 1 0 0 0)) = .ok 1 ∧
    takesByte (targetOf defaultCfg 0x02C) = true ∧ takesByte (targetOf defaultCfg 0x009) = true) ∧
  (memRead (advance (cpu 1 0 0 0) 1) (effAddr 0x13 .zero (cpu 1 0 0 0)) = .ok 1 ∧
    targetOf defaultCfg 0x013 = .reg .pclatl) ∧
  (resolve (cpu 1 0 0 0) (effAddr 0x08 .zero (cpu 1 0 0 0)) = .ok 0x008 ∧ targetOf defaultCfg 0x008 = .reg .status) ∧
  ([0x011, 0x012, 0x00F, 0x010, 0x014, 0x015].map (targetOf defaultCfg) = systemRegs.map .reg) ∧
  (resolve { cpu 1 0 0 0 with bsrcn := 7 } (effAddr 0xFF .bsr { cpu 1 0 0 0 with bsrcn := 7 }) = .ok 0x7FF ∧
    targetOf defaultCfg 0x7FF = .absent ∧ targetOf defaultCfg 0x500 = .absent ∧ targetOf defaultCfg 0x4FF = .ram) ∧
  (memRead (advance (cpu 1 0 0 0) 1) (effAddr 0x80 .zero (cpu 1 0 0 0)) = .error (.unwrittenCell 0x080)) ∧
  (resolve { cpu 1 0 0 0 with fsr0l := 1 } (effAddr 0x01 .zero { cpu 1 0 0 0 with fsr0l := 1 }) =
    .error (.indfSelfReference 0x001))

theorem fileWitness : FileWitness :=
  ⟨⟨rfl, rfl, by decide⟩, ⟨rfl, by decide, by decide⟩, ⟨rfl, by decide⟩, ⟨rfl, by decide⟩, by decide,
    ⟨rfl, by decide, by decide, by decide⟩, rfl, rfl⟩
theorem witness_FileArithmetic : FileWitness := fileWitness
theorem witness_FileLogic : FileWitness := fileWitness
theorem witness_FileRotates : FileWitness := fileWitness
theorem witness_SwapNibbles : FileWitness := fileWitness
theorem witness_FileStores : FileWitness := fileWitness
theorem witness_MoveFile : FileWitness := fileWitness
theorem witness_RotateLeftWithOverflow : FileWitness := fileWitness
theorem witness_MoveFileToFile : FileWitness := fileWitness
theorem witness_BitWrites : FileWitness := fileWitness
theorem witness_Multiply : FileWitness := fileWitness
/-- Every named bit of STKPTR, Pstatus and the GIE register, and a bit that is none. -/
theorem witness_SystemBitWrites :
    FileWitness ∧ cfgWf defaultCfg = true ∧
    [7, 6, 5] = [defaultBitPos.stkfl.val, defaultBitPos.stkov.val, defaultBitPos.stkun.val] ∧
    [3, 2, 1, 0] = [defaultBitPos.skerr.val, defaultBitPos.timeOut.val, defaultBitPos.idleb.val, defaultBitPos.pd.val] ∧
    defaultBitPos.gie.val = 7 ∧ (4 : BitVec 3).toNat ∉ [7, 6, 5, 3, 2, 1, 0] :=
  ⟨fileWitness, by decide, by decide, by decide, by decide, by decide⟩
/-- Both outcomes of a test at the last place where a skip stays in the program, and one past it. -/
theorem witness_TestSkips :
    FileWitness ∧ CanSkip (withProgram (cpu 0 0 0x080 0) 0) .nop ∧ CanSkip (withProgram (cpu 0 0 0x080 0) 1) (.call 0 false) ∧
    (∀ j, ¬CanSkip (withProgram (cpu 0 0 0x080 0) 4) j) ∧
    (∀ j, ¬CanSkip { withProgram (cpu 0 0 0x080 0) 0 with cfg := { defaultCfg with progSize := 2 } } j) := by
  refine ⟨fileWitness, ⟨rfl, by decide, by decide⟩, ⟨rfl, by decide, by decide⟩, fun j h => ?_, fun j h => ?_⟩
  · have h1 := h.1
    rw [show fetchAt _ _ = .error .dataWord from rfl] at h1
    cases h1
  · have h1 := h.1
    rw [show fetchAt _ _ = .ok .nop from rfl] at h1
    cases h1
    exact absurd h.2.1 (by decide)
/-- The results around zero: 01H and 00H counted down, FFH and 00H counted up. -/
theorem witness_CountSkips :
    FileWitness ∧ CanSkip (withProgram (cpu 0 0 0x080 0) 1) (.call 0 false) ∧
    memRead (advance (withProgram (cpu 0 0 0x080 0) 1) 1) 0x013 = .ok 2 ∧
    (0x00 : Byte).toNat = ((0x01 : Byte).toNat + 255) % 256 ∧ (0xFF : Byte).toNat = ((0x00 : Byte).toNat + 255) % 256 ∧
    (0x00 : Byte).toNat = ((0xFF : Byte).toNat + 1) % 256 ∧ (0x01 : Byte).toNat = ((0x00 : Byte).toNat + 1) % 256 :=
  ⟨fileWitness, ⟨rfl, by decide, by decide⟩, rfl, by decide, by decide, by decide, by decide⟩
/-- The last free level, and both sides of the end of program memory. -/
theorem witness_CallsPush :
    { State.reset with sp := 3 }.sp < State.reset.cfg.stackDepth ∧ { State.reset with pc := 0x3FFD }.pc.toNat + 2 < progSpace ∧
    ¬{ State.reset with pc := 0x3FFE }.pc.toNat + 2 < progSpace := by decide
theorem witness_CallOverflow :
    { State.reset with sp := 4 }.sp = State.reset.cfg.stackDepth ∧ State.reset.sbmset7 = false ∧
    { State.reset with sp := 4, sbmset7 := true }.sbmset7 = true := by decide
theorem witness_ReturnsPop :
    1 ≤ { State.reset with sp := 1 }.sp ∧ { State.reset with stk := [5, 0, 0, 9] }.stk[1 - 1]? = some 5 ∧
    { State.reset with stk := [5, 0, 0, 9] }.stk[4 - 1]? = some 9 := by decide
theorem witness_ReturnUnderflow : State.reset.sp = 0 ∧ State.reset.sbmset7 = false ∧
    { State.reset with sbmset7 := true }.sbmset7 = true := by decide
theorem witness_ConditionalJumps : (cpu 0 0b11111 0 0).status = flagsOf 31 ∧ (cpu 0 0 0 0).status = flagsOf 0 := by decide
theorem witness_PopDropsTop : State.reset.sp = 0 ∧ 1 ≤ { State.reset with sp := 1 }.sp ∧
    2 ≤ { State.reset with sp := 2 }.sp ∧ { State.reset with stk := [5, 6, 0, 0] }.stk[2 - 2]? = some 5 := by decide
/-- A word of the program at the pointer, the pointer's last value with a word, and the last before 3FFFH. -/
theorem witness_TableReads :
    cellRead (machine 0).prog 5 = some ⟨.data, 0x5678⟩ ∧ 5 < (machine 0).cfg.progSize ∧ 0x3F * 256 + 0xFE + 1 < progSpace := by
  decide
theorem witness_CallThenReturn :
    stackWf { State.reset with sp := 3 } ∧ { State.reset with sp := 3 }.sp < State.reset.cfg.stackDepth ∧
    { State.reset with sp := 3 }.pc.toNat + 2 < progSpace :=
  ⟨⟨rfl, by decide⟩, by decide, by decide⟩
theorem witness_InterruptThenReturn :
    EntersInterrupt (requested 3 false) ∧ (inputNow (requested 3 false)).reset = false ∧
    (requested 3 false).cfg.wdtEnabled = false ∧ stackWf (requested 3 false) ∧ (requested 3 false).sp < 4 ∧
    (requested 3 false).pcPast = false ∧
    EntersInterrupt { requested 0 false with cfg := { defaultCfg with intShadowSave := true } } :=
  ⟨⟨rfl, rfl, rfl, .inl rfl⟩, rfl, rfl, ⟨rfl, by decide⟩, by decide, rfl, ⟨rfl, rfl, rfl, .inl rfl⟩⟩
theorem witness_ReadBackWhatWasWritten :
    [0x4FF, 0x02C, 0x004, 0x006, 0x009, 0x00A, 0x00C, 0x00D, 0x00E].map (targetOf defaultCfg) =
      [.ram, .wreg, .reg .fsr0l, .reg .fsr1l, .reg .prodh, .reg .prodl, .reg .tblptrl, .reg .tbldh, .reg .tbldl] := by
  decide
/-- Each kind of address, and each named register of the default product. -/
theorem witness_DataReadCases :
    cfgWf State.reset.cfg = true ∧ stackWf State.reset ∧ FileWitness ∧
    defaultSfrs.all (fun p => targetOf defaultCfg p.1 == .reg p.2) = true ∧
    requiredSfrs.all (fun r => (defaultSfrs.map (·.2)).contains r) = true :=
  ⟨by decide, ⟨rfl, by decide⟩, fileWitness, by decide, by decide⟩
/-- INDF0 through FSR0 = 17FH, INDF1 through FSR1 = 4FFH, and a pointer to INDF1. -/
theorem witness_IndirectAccess :
    targetOf defaultCfg 0x001 = .reg .indf0 ∧ targetOf defaultCfg 0x002 = .reg .indf1 ∧
    (0x17F : DataAddr).toNat = (0x01 : Byte).toNat % 8 * 256 + (0x7F : Byte).toNat ∧ targetOf defaultCfg 0x17F = .ram ∧
    (0x4FF : DataAddr).toNat = (0xFC : Byte).toNat % 8 * 256 + (0xFF : Byte).toNat := by decide

end Sys2Proof.Tests
end

section
/-! SUPPORT. What one instruction can do to W, the flags, the shadows and the run state, said once for all 67 forms
(`ExecShape`), and the frame statements about single steps that follow from it. -/

namespace Sys2Proof.Proofs

open Sys2Proof.Machine Sys2Proof.Claims

/-! ## Writes of a named register and through data space -/

/-- From `s` to `t` neither halt flag is set: a data-space write can clear IdleB and PD but not set them (`92` D12). -/
structure HaltFlagsFall (s t : State) : Prop where
  idleb : t.idleb = true → s.idleb = true
  pd : t.pd = true → s.pd = true

theorem HaltFlagsFall.of_eq {s t : State} (hi : t.idleb = s.idleb) (hp : t.pd = s.pd) : HaltFlagsFall s t :=
  ⟨fun h => hi ▸ h, fun h => hp ▸ h⟩

/-- A BCF of Pstatus leaves W and STATUS alone and sets no halt flag. -/
theorem clearPstatusBit_frame {s t : State} {b : Nat} (h : clearPstatusBit s b = .next t) :
    t.w = s.w ∧ t.status = s.status ∧ HaltFlagsFall s t := by
  obtain rfl | rfl | rfl | rfl := clearPstatusBit_next h
  · exact ⟨rfl, rfl, .of_eq rfl rfl⟩
  · exact ⟨rfl, rfl, .of_eq rfl rfl⟩
  · exact ⟨rfl, rfl, ⟨fun h => absurd h Bool.false_ne_true, fun h => h⟩⟩
  · exact ⟨rfl, rfl, ⟨fun h => h, fun h => absurd h Bool.false_ne_true⟩⟩

/-- A write of a named register leaves W alone, changes STATUS only if STATUS is the register, and sets no halt
flag. -/
theorem writeSfr_frame {k : WriteKind} {s t : State} {v : Byte} {r : Sfr} (h : writeSfr k s v r = .next t) :
    t.w = s.w ∧ (r = .status ∨ t.status = s.status) ∧ HaltFlagsFall s t := by
  cases r with
  | bsrcn | fsr0h | fsr0l | fsr1h | fsr1l | prodh | prodl | tblptrh | tblptrl | tbldh | tbldl =>
    cases h
    exact ⟨rfl, .inr rfl, .of_eq rfl rfl⟩
  | indf0 | indf1 | tosh | tosl | sbmset1 => cases h
  | status => cases k <;> cases h <;> exact ⟨rfl, .inl rfl, .of_eq rfl rfl⟩
  | pclatl => cases k <;> cases h <;> exact ⟨rfl, .inr rfl, .of_eq rfl rfl⟩
  | stkptr =>
    cases k with
    | bitClear b => obtain rfl | rfl := clearStkptrBit_next h <;> exact ⟨rfl, .inr rfl, .of_eq rfl rfl⟩
    | pure | modify | modifyFlags | bitSet => cases h
  | pstatus =>
    cases k with
    | bitClear b =>
      obtain ⟨hw, hs, hh⟩ := clearPstatusBit_frame h
      exact ⟨hw, .inr hs, hh⟩
    | pure | modify | modifyFlags | bitSet => cases h
  | gieReg =>
    cases k with
    | bitClear b | bitSet b =>
      simp only [writeSfr] at h
      split at h
      · cases h
        exact ⟨rfl, .inr rfl, .of_eq rfl rfl⟩
      · cases h
    | pure | modify | modifyFlags => cases h

/-- A data-space write changes W only at 02CH, STATUS only at its data address, and sets no halt flag. -/
theorem memWrite_frame {k : WriteKind} {s t : State} {a : DataAddr} {v : Byte} (h : memWrite k s a v = .next t) :
    (t.w = s.w ∨ resolve s a = .ok wregAddr) ∧
      (t.status = s.status ∨ ∃ e, resolve s a = .ok e ∧ targetOf s.cfg e = .reg .status) ∧ HaltFlagsFall s t := by
  obtain ⟨e, he, -, ⟨-, rfl⟩ | ⟨hw, rfl⟩ | ⟨r, hr, h, -⟩⟩ := memWrite_next h
  · exact ⟨.inl rfl, .inl rfl, .of_eq rfl rfl⟩
  · exact ⟨.inr (eq_wregAddr_of_target hw ▸ he), .inl rfl, .of_eq rfl rfl⟩
  · obtain ⟨hw, rfl | hs, hh⟩ := writeSfr_frame h
    · exact ⟨.inl hw, .inr ⟨e, he, hr⟩, hh⟩
    · exact ⟨.inl hw, .inl hs, hh⟩

/-! ## Flags: what an instruction computes, against the writers of `10` R24 -/

/-- From `old` to `new` the instruction changes only flags it is listed for as a writer (`10` R24). -/
structure FlagsBy (i : Instr) (old new : Flags) : Prop where
  dc : new.dc ≠ old.dc → writesFive i = true
  ov : new.ov ≠ old.ov → writesOv i = true
  c : new.c ≠ old.c → writesC i = true
  nz : new.n ≠ old.n ∨ new.z ≠ old.z → writesNz i = true

theorem FlagsBy.refl (i : Instr) (fl : Flags) : FlagsBy i fl fl :=
  ⟨fun h => absurd rfl h, fun h => absurd rfl h, fun h => absurd rfl h, (·.elim (absurd rfl) (absurd rfl))⟩

/-- A writer of all five flags is a writer of each. -/
theorem FlagsBy.of_writesFive {i : Instr} {old new : Flags} (hi : writesFive i = true) : FlagsBy i old new where
  dc _ := hi
  ov _ := by simp [writesOv, hi]
  c _ := by simp [writesC, hi]
  nz _ := by simp [writesNz, writesC, hi]

theorem FlagsBy.setNZ {i : Instr} {old : Flags} {r : Byte} (hi : writesNz i = true) :
    FlagsBy i old (Machine.setNZ old r) :=
  ⟨fun h => absurd rfl h, fun h => absurd rfl h, fun h => absurd rfl h, fun _ => hi⟩

theorem FlagsBy.resultCNZ {i : Instr} {old : Flags} {c : Bool} {r : Byte} (hi : writesC i = true) :
    FlagsBy i old (Machine.resultCNZ old c r).flags :=
  ⟨fun h => absurd rfl h, fun h => absurd rfl h, fun _ => hi, fun _ => by simp [writesNz, hi]⟩

/-! ## The shape of every instruction -/

/-- `u` is what the instruction makes of `s` without a data-space write and without raising a reset: each field
of interest is as it was, or the instruction is one of those that may change it. -/
structure Computed (i : Instr) (s u : State) : Prop where
  w : u.w = s.w ∨ storesToW i = true
  flags : FlagsBy i s.status u.status
  shadows : (u.wregsdw = s.wregsdw ∧ u.stasdw = s.stasdw ∧ u.bsrsdw = s.bsrsdw) ∨ ∃ n, i = .call n true
  run : u.run = s.run ∨ (i = .idle ∧ u.run = .idle) ∨ (i = .slp ∧ u.run = .sleeping)
  idleb : u.idleb = s.idleb ∨ i = .idle
  pd : u.pd = s.pd ∨ i = .slp
  program : u.prog = s.prog ∧ u.cfg = s.cfg

/-- What an instruction that raises no reset makes of `s`: a computed state, then at most one data-space write
through its write operand, then at most a jump. -/
inductive ExecShape (i : Instr) (s : State) : State → Prop where
  | computed {u : State} (hu : Computed i s u) : ExecShape i s u
  | stored {k : WriteKind} {u t : State} {a : DataAddr} {v : Byte} (hu : Computed i s u)
      (ha : writeOperand s i = some a) (hr : resolve u a = resolve s a) (hw : memWrite k u a v = .next t) :
      ExecShape i s t
  | jumped {t : State} {p : ProgAddr} (ht : ExecShape i s t) : ExecShape i s (setPc t p)

/-- `t` is the reset state of a machine with the program and product of `s`. -/
def ResetFrom (s t : State) : Prop := ∃ u : State, t = chipReset u ∧ u.prog = s.prog ∧ u.cfg = s.cfg

theorem ResetFrom.wasReset {s t : State} (h : ResetFrom s t) : WasReset t :=
  let ⟨u, hu, _⟩ := h
  ⟨u, hu⟩

/-- What an instruction that goes on answers. -/
def ExecOutcome (i : Instr) (s t : State) : Prop := ExecShape i s t ∨ ResetFrom s t

/-- Moving the PC, and new flags and a new W that the instruction is allowed, make a computed state. -/
theorem computed_advance {i : Instr} {s : State} {n : Nat} {v : Byte} {fl : Flags} (hw : v = s.w ∨ storesToW i = true)
    (hf : FlagsBy i s.status fl) : Computed i s { advance s n with w := v, status := fl } :=
  ⟨hw, hf, .inl ⟨rfl, rfl, rfl⟩, .inl rfl, .inl rfl, .inl rfl, ⟨rfl, rfl⟩⟩

theorem computed_advance_flags {i : Instr} {s : State} {n : Nat} {fl : Flags} (hf : FlagsBy i s.status fl) :
    Computed i s { advance s n with status := fl } :=
  computed_advance (.inl rfl) hf

theorem computed_advance_pc (i : Instr) (s : State) (n : Nat) : Computed i s (advance s n) :=
  computed_advance (.inl rfl) (.refl i s.status)

/-- A state that differs from `s` in none of the fields of interest. -/
theorem computed_of_eq {i : Instr} {s u : State} (hw : u.w = s.w) (hf : u.status = s.status)
    (hs : u.wregsdw = s.wregsdw ∧ u.stasdw = s.stasdw ∧ u.bsrsdw = s.bsrsdw) (hr : u.run = s.run)
    (hi : u.idleb = s.idleb) (hp : u.pd = s.pd) (hc : u.prog = s.prog ∧ u.cfg = s.cfg) : Computed i s u :=
  ⟨.inl hw, hf ▸ .refl i _, .inl hs, .inl hr, .inl hi, .inl hp, hc⟩

/-- The destination select stores the result in W or through the write operand. -/
theorem shape_of_dest {i : Instr} {k : WriteKind} {d : Dest} {s u t : State} {ea : DataAddr} {v : Byte}
    (h : dest k d ea v u = .next t) (hu : Computed i s u) (hr : resolve u ea = resolve s ea)
    (hw : d = .w → storesToW i = true) (hf : d = .f → writeOperand s i = some ea) : ExecShape i s t := by
  obtain ⟨hd, rfl⟩ | ⟨hd, h⟩ := dest_next h
  · exact .computed ⟨.inr (hw hd), hu.flags, hu.shadows, hu.run, hu.idleb, hu.pd, hu.program⟩
  · exact .stored hu (hf hd) hr h

theorem shape_of_fileFlagged {i : Instr} {f : Byte} {d : Dest} {a : Bank} {g : State → Byte → AluResult}
    {s t : State} (h : fileFlagged f d a g s = .next t) (hw : d = .w → storesToW i = true)
    (hf : d = .f → writeOperand s i = some (effAddr f a s)) (hg : ∀ x, FlagsBy i s.status (g s x).flags) :
    ExecShape i s t := by
  obtain ⟨x, -, h⟩ := fileFlagged_next h
  exact shape_of_dest h (computed_advance_flags (hg x)) rfl hw hf

theorem shape_of_fileUnflagged {i : Instr} {f : Byte} {d : Dest} {a : Bank} {g : Byte → Byte} {s t : State}
    (h : fileUnflagged f d a g s = .next t) (hw : d = .w → storesToW i = true)
    (hf : d = .f → writeOperand s i = some (effAddr f a s)) : ExecShape i s t := by
  obtain ⟨x, -, h⟩ := fileUnflagged_next h
  exact shape_of_dest h (computed_advance_pc i s 1) rfl hw hf

theorem shape_of_countSkip {i : Instr} {f : Byte} {d : Dest} {a : Bank} {g : Byte → Byte} {c : Byte → Bool}
    {s t : State} (h : countSkip f d a g c s = .next t) (hw : d = .w → storesToW i = true)
    (hf : d = .f → writeOperand s i = some (effAddr f a s)) : ExecShape i s t := by
  obtain ⟨x, u, -, hd, ht⟩ := countSkip_next h
  have hu : ExecShape i s u := shape_of_dest hd (computed_advance_pc i s 1) rfl hw hf
  obtain rfl | ⟨p, rfl⟩ := ht
  · exact hu
  · exact hu.jumped

/-- A write straight after the PC has moved. -/
theorem shape_of_memWrite {i : Instr} {k : WriteKind} {n : Nat} {a : DataAddr} {v : Byte} {s t : State}
    (h : memWrite k (advance s n) a v = .next t) (ha : writeOperand s i = some a) : ExecShape i s t :=
  .stored (computed_advance_pc i s n) ha rfl h

theorem shape_of_fileBit {i : Instr} {k : WriteKind} {f : Byte} {a : Bank} {g : Byte → Byte} {s t : State}
    (h : fileBit k f a g s = .next t) (ha : writeOperand s i = some (effAddr f a s)) : ExecShape i s t := by
  obtain ⟨x, -, h⟩ := fileBit_next h
  exact shape_of_memWrite h ha

theorem shape_of_testSkip (i : Instr) {f : Byte} {a : Bank} {c : Byte → Bool} {s t : State}
    (h : testSkip f a c s = .next t) : ExecShape i s t := by
  obtain ⟨x, -, rfl | ⟨p, rfl⟩⟩ := testSkip_next h
  · exact .computed (computed_advance_pc i s 1)
  · exact .jumped (.computed (computed_advance_pc i s 1))

theorem shape_of_jumpIf (i : Instr) {c : Bool} {n : BitVec 8} {s t : State} (h : jumpIf c n s = .next t) :
    ExecShape i s t := by
  cases c with
  | false =>
    cases h
    exact .computed (computed_advance_pc i s 1)
  | true =>
    cases h
    exact .jumped (.computed (computed_advance_pc i s 1))

theorem shape_of_literalFlagged {i : Instr} {g : State → AluResult} {s t : State} (h : literalFlagged g s = .next t)
    (hw : storesToW i = true) (hf : FlagsBy i s.status (g s).flags) : ExecShape i s t := by
  cases h
  exact .computed (computed_advance (.inr hw) hf)

/-! ## The stack -/

/-- `u` is `s` but for the stack, its pointer and the flags a push raises. -/
def StackMoved (s u : State) : Prop :=
  u = { s with sp := u.sp, stk := u.stk, stkfl := u.stkfl, stkov := u.stkov, skerr := u.skerr }

/-- A push resets the chip, or goes on with a state in which only the stack has moved. -/
theorem pushThen_spec {s t : State} {v : ProgAddr} {k : State → State} (ht : t = pushThen s v k) :
    ResetFrom s t ∨ ∃ u, StackMoved s u ∧ t = k u := by
  subst ht
  obtain ⟨-, h⟩ | ⟨-, -, h⟩ | ⟨-, -, h⟩ := pushThen_cases s v k
  · refine .inr ⟨_, ?_, h⟩
    rfl
  · exact .inl ⟨_, h, rfl, rfl⟩
  · refine .inr ⟨_, ?_, h⟩
    rfl

/-- A pop resets the chip, or goes on with a state in which the pointer and the PC have moved. -/
theorem popThen_spec {s t : State} {k : State → State} (h : popThen s k = .next t) :
    ResetFrom s t ∨ ∃ p, t = k (setPc { s with sp := s.sp - 1 } p) := by
  obtain ⟨-, -, rfl⟩ | ⟨-, rfl⟩ := popThen_next h
  · exact .inl ⟨_, rfl, rfl, rfl⟩
  · exact .inr ⟨_, rfl⟩

/-- A call ends in a reset, or in a computed state: the push and the jump touch no field of interest. -/
theorem outcome_of_push {i : Instr} {s u : State} (hu : Computed i s u) (v p : ProgAddr) :
    ExecOutcome i s (pushThen u v fun x => setPc x p) := by
  obtain ⟨x, hx, hp, hc⟩ | ⟨x, hx, h⟩ := pushThen_spec (t := pushThen u v fun x => setPc x p) rfl
  · exact .inr ⟨x, hx, hp.trans hu.program.1, hc.trans hu.program.2⟩
  · rw [h, hx]
    exact .inl (.computed ⟨hu.w, hu.flags, hu.shadows, hu.run, hu.idleb, hu.pd, hu.program⟩)

/-- W, STATUS and BSRCN from the shadows only in a return with s = 1. -/
theorem computed_of_return {i : Instr} {s u : State} {sh : Bool} (hw : storesToW i = sh) (hf : writesFive i = sh)
    (hu : Computed i s u) : Computed i s (if sh then restoreShadows u else u) := by
  cases sh with
  | false => exact hu
  | true => exact ⟨.inr hw, .of_writesFive hf, hu.shadows, hu.run, hu.idleb, hu.pd, hu.program⟩

theorem computed_of_pop (i : Instr) (s : State) (p : ProgAddr) :
    Computed i s (setPc { s with sp := s.sp - 1 } p) :=
  computed_of_eq rfl rfl ⟨rfl, rfl, rfl⟩ rfl rfl rfl ⟨rfl, rfl⟩

theorem execCall_outcome {n : ProgAddr} {sh : Bool} {s t : State} (h : execCall n sh s = .next t) :
    ExecOutcome (.call n sh) s t := by
  cases h
  cases sh with
  | false => exact outcome_of_push (computed_advance_pc _ s 2) _ n
  | true =>
    refine outcome_of_push (u := saveShadows (advance s 2)) ?_ _ n
    exact ⟨.inl rfl, .refl _ _, .inr ⟨n, rfl⟩, .inl rfl, .inl rfl, .inl rfl, ⟨rfl, rfl⟩⟩

theorem execRcall_outcome {n : BitVec 11} {s t : State} (h : execRcall n s = .next t) :
    ExecOutcome (.rcall n) s t := by
  cases h
  exact outcome_of_push (computed_advance_pc _ s 1) _ _

theorem execRet_outcome {sh : Bool} {s t : State} (h : execRet sh s = .next t) : ExecOutcome (.ret sh) s t := by
  obtain hr | ⟨p, rfl⟩ := popThen_spec h
  · exact .inr hr
  · exact .inl (.computed (computed_of_return rfl rfl (computed_of_pop _ s p)))

theorem execReti_outcome {sh : Bool} {s t : State} (h : execReti sh s = .next t) : ExecOutcome (.reti sh) s t := by
  obtain hr | ⟨p, rfl⟩ := popThen_spec h
  · exact .inr hr
  · have hu : Computed (.reti sh) s _ := computed_of_return rfl rfl (computed_of_pop _ s p)
    exact .inl (.computed ⟨hu.w, hu.flags, hu.shadows, hu.run, hu.idleb, hu.pd, hu.program⟩)

theorem execRetl_outcome {k : Byte} {s t : State} (h : execRetl k s = .next t) : ExecOutcome (.retl k) s t := by
  obtain hr | ⟨p, rfl⟩ := popThen_spec h
  · exact .inr hr
  · have hu := computed_of_pop (.retl k) s p
    exact .inl (.computed ⟨.inr rfl, hu.flags, hu.shadows, hu.run, hu.idleb, hu.pd, hu.program⟩)

/-! ## Every instruction has the shape -/

/-- Every instruction that goes on answers a state of the one shape, or a reset state. -/
theorem exec_outcome {i : Instr} {s t : State} (h : exec i s = .next t) : ExecOutcome i s t := by
  cases i with
  | addc | addf | dcf | inf | subc | subf =>
    simp only [exec] at h
    exact .inl (shape_of_fileFlagged h (by rintro rfl; rfl) (by rintro rfl; rfl) fun _ => .of_writesFive rfl)
  | andf | comf | iorf | xorf | rlf | rrf =>
    simp only [exec] at h
    exact .inl (shape_of_fileFlagged h (by rintro rfl; rfl) (by rintro rfl; rfl) fun _ => .setNZ rfl)
  | arrc | rlfc | rrfc =>
    simp only [exec] at h
    exact .inl (shape_of_fileFlagged h (by rintro rfl; rfl) (by rintro rfl; rfl) fun _ => .resultCNZ rfl)
  | arlc =>
    simp only [exec] at h
    exact .inl (shape_of_fileFlagged h (by rintro rfl; rfl) (by rintro rfl; rfl) fun _ =>
      ⟨fun hd => absurd rfl hd, fun _ => rfl, fun _ => rfl, fun _ => rfl⟩)
  | swpf =>
    simp only [exec] at h
    exact .inl (shape_of_fileUnflagged h (by rintro rfl; rfl) (by rintro rfl; rfl))
  | dcsuz | dcsz | insuz | insz =>
    simp only [exec] at h
    exact .inl (shape_of_countSkip h (by rintro rfl; rfl) (by rintro rfl; rfl))
  | clrf | setf =>
    simp only [exec] at h
    exact .inl (shape_of_memWrite h rfl)
  | bcf | bsf | btgf =>
    simp only [exec] at h
    exact .inl (shape_of_fileBit h rfl)
  | cpse | cpsg | cpsl | tfsz | btss | btsz =>
    simp only [exec] at h
    exact .inl (shape_of_testSkip _ h)
  | jc | jnc | jn | jnn | jo | jno | jz | jnz =>
    simp only [exec] at h
    exact .inl (shape_of_jumpIf _ h)
  | addl | subl =>
    simp only [exec] at h
    exact .inl (shape_of_literalFlagged h rfl (.of_writesFive rfl))
  | andl | iorl | xorl =>
    simp only [exec] at h
    exact .inl (shape_of_literalFlagged h rfl (.setNZ rfl))
  | mvf f d a =>
    cases d with
    | w =>
      obtain ⟨x, -, h⟩ := withByte_next h
      cases h
      exact .inl (.computed (computed_advance (.inr rfl) (.refl _ _)))
    | f => exact .inl (shape_of_memWrite h rfl)
  | mvff =>
    obtain ⟨x, -, h⟩ := withByte_next h
    exact .inl (shape_of_memWrite h rfl)
  | mulf =>
    obtain ⟨x, -, h⟩ := withByte_next h
    cases h
    exact .inl (.computed (computed_of_eq rfl rfl ⟨rfl, rfl, rfl⟩ rfl rfl rfl ⟨rfl, rfl⟩))
  | mvl =>
    cases h
    exact .inl (.computed (computed_advance (.inr rfl) (.refl _ _)))
  | ldpr k f =>
    cases f <;> cases h <;>
      exact .inl (.computed (computed_of_eq rfl rfl ⟨rfl, rfl, rfl⟩ rfl rfl rfl ⟨rfl, rfl⟩))
  | mull | lbsr | jmp | rj | nop | pop | cwdt | mvlp | tblr | tblrInc =>
    cases h
    exact .inl (.computed (computed_of_eq rfl rfl ⟨rfl, rfl, rfl⟩ rfl rfl rfl ⟨rfl, rfl⟩))
  | idle =>
    cases h
    have hu := computed_advance_pc .idle s 1
    exact .inl (.computed ⟨hu.w, hu.flags, hu.shadows, .inr (.inl ⟨rfl, rfl⟩), .inr rfl, hu.pd, hu.program⟩)
  | slp =>
    cases h
    have hu := computed_advance_pc .slp s 1
    exact .inl (.computed ⟨hu.w, hu.flags, hu.shadows, .inr (.inr ⟨rfl, rfl⟩), hu.idleb, .inr rfl, hu.program⟩)
  | call => exact execCall_outcome h
  | rcall => exact execRcall_outcome h
  | ret => exact execRet_outcome h
  | reti => exact execReti_outcome h
  | retl => exact execRetl_outcome h

theorem exec_shape {i : Instr} {s t : State} (h : exec i s = .next t) (hr : ¬WasReset t) : ExecShape i s t :=
  (exec_outcome h).resolve_right fun hf => hr hf.wasReset

end Sys2Proof.Proofs
end

section
/-! The frame statements: who writes the flags and W, what no step changes, who writes the shadows, and how the CPU
leaves Running. Each follows from `exec_shape` and, for a whole step, from `step_next`. -/

namespace Sys2Proof.Proofs

open Sys2Proof.Machine Sys2Proof.Claims

/-- A write operand that the computed state resolves is one that the instruction writes at. -/
theorem writesAt_of_resolve {i : Instr} {s u : State} {a e : DataAddr} (ha : writeOperand s i = some a)
    (hr : resolve u a = resolve s a) (he : resolve u a = .ok e) : WritesAt s i e :=
  ⟨a, ha, hr ▸ he⟩

theorem ExecShape.w {i : Instr} {s t : State} (h : ExecShape i s t) :
    t.w = s.w ∨ storesToW i = true ∨ WritesAt s i wregAddr := by
  induction h with
  | computed hu => exact hu.w.imp_right .inl
  | stored hu ha hr hw =>
    obtain ⟨hw | he, -, -⟩ := memWrite_frame hw
    · exact hw ▸ hu.w.imp_right .inl
    · exact .inr (.inr (writesAt_of_resolve ha hr he))
  | jumped _ ih => exact ih

theorem ExecShape.flags {i : Instr} {s t : State} (h : ExecShape i s t)
    (hs : ∀ e, WritesAt s i e → targetOf s.cfg e ≠ .reg .status) : FlagsBy i s.status t.status := by
  induction h with
  | computed hu => exact hu.flags
  | stored hu ha hr hw =>
    obtain ⟨-, hst | ⟨e, he, ht⟩, -⟩ := memWrite_frame hw
    · exact hst ▸ hu.flags
    · exact absurd (hu.program.2 ▸ ht) (hs e (writesAt_of_resolve ha hr he))
  | jumped _ ih => exact ih

theorem ExecShape.program {i : Instr} {s t : State} (h : ExecShape i s t) : t.prog = s.prog ∧ t.cfg = s.cfg := by
  induction h with
  | computed hu => exact hu.program
  | stored hu _ _ hw =>
    obtain ⟨-, -, hc, -⟩ := memWrite_next hw
    exact ⟨hc.prog.trans hu.program.1, hc.cfg.trans hu.program.2⟩
  | jumped _ ih => exact ih

theorem ExecShape.shadows {i : Instr} {s t : State} (h : ExecShape i s t) :
    (t.wregsdw = s.wregsdw ∧ t.stasdw = s.stasdw ∧ t.bsrsdw = s.bsrsdw) ∨ ∃ n, i = .call n true := by
  induction h with
  | computed hu => exact hu.shadows
  | stored hu _ _ hw =>
    obtain ⟨-, -, hc, -⟩ := memWrite_next hw
    rw [hc.wregsdw, hc.stasdw, hc.bsrsdw]
    exact hu.shadows
  | jumped _ ih => exact ih

theorem ExecShape.run {i : Instr} {s t : State} (h : ExecShape i s t) :
    t.run = s.run ∨ (i = .idle ∧ t.run = .idle) ∨ (i = .slp ∧ t.run = .sleeping) := by
  induction h with
  | computed hu => exact hu.run
  | stored hu _ _ hw =>
    obtain ⟨-, -, hc, -⟩ := memWrite_next hw
    rw [hc.run]
    exact hu.run
  | jumped _ ih => exact ih

/-- Only IDLE sets IdleB, only SLP sets PD. -/
theorem ExecShape.haltFlags {i : Instr} {s t : State} (h : ExecShape i s t) :
    (t.idleb = true → s.idleb = true ∨ i = .idle) ∧ (t.pd = true → s.pd = true ∨ i = .slp) := by
  induction h with
  | computed hu => exact ⟨fun ht => hu.idleb.imp_left (·.symm.trans ht), fun ht => hu.pd.imp_left (·.symm.trans ht)⟩
  | stored hu _ _ hw =>
    obtain ⟨-, -, hh⟩ := memWrite_frame hw
    exact ⟨fun ht => hu.idleb.imp_left (·.symm.trans (hh.idleb ht)), fun ht => hu.pd.imp_left (·.symm.trans (hh.pd ht))⟩
  | jumped _ ih => exact ih

/-- Settles O23: a computed state changes only the flags its instruction is listed for, and a store only through
the data address of STATUS. -/
theorem flagsChangeOnlyByWriters : Obligations.FlagsChangeOnlyByWriters := by
  intro i s t h hr hs
  have hf := (exec_shape h hr).flags hs
  exact ⟨hf.dc, hf.ov, hf.c, hf.nz⟩

/-- Settles O24. -/
theorem wChangesOnlyByWriters : Obligations.WChangesOnlyByWriters := by
  intro i s t h hr hw
  exact (exec_shape h hr).w.resolve_left hw

/-! ## Whole steps -/

/-- An interrupt entry raises a reset, or leaves the CPU running with the halt flags as they were and, on a product
that does not save them, the shadows too. -/
theorem interruptEntry_spec (s : State) :
    ResetFrom s (interruptEntry s) ∨
      ((interruptEntry s).run = .running ∧ (interruptEntry s).idleb = s.idleb ∧ (interruptEntry s).pd = s.pd ∧
        ((interruptEntry s).prog = s.prog ∧ (interruptEntry s).cfg = s.cfg) ∧
        (s.cfg.intShadowSave = true ∨
          ((interruptEntry s).wregsdw = s.wregsdw ∧ (interruptEntry s).stasdw = s.stasdw ∧
            (interruptEntry s).bsrsdw = s.bsrsdw))) := by
  obtain h | ⟨u, hu, h⟩ := pushThen_spec (t := interruptEntry s) rfl
  · exact .inl h
  · refine .inr ?_
    rw [h, hu]
    cases s.cfg.intShadowSave with
    | true => exact ⟨rfl, rfl, rfl, ⟨rfl, rfl⟩, .inl rfl⟩
    | false => exact ⟨rfl, rfl, rfl, ⟨rfl, rfl⟩, .inr ⟨rfl, rfl, rfl⟩⟩

/-- Settles O16: a reset, an interrupt entry and an instruction all keep the program and the product. -/
theorem stepKeepsProgram : Obligations.StepKeepsProgram := by
  intro s t h
  have of_reset {v : State} (hv : ResetFrom (beginStep s) v) : v.prog = s.prog ∧ v.cfg = s.cfg := by
    obtain ⟨u, rfl, hp⟩ := hv
    exact hp
  obtain ⟨-, ⟨-, rfl⟩ | ⟨-, rfl⟩ | ⟨-, -, -, rfl⟩ | ⟨-, rfl | rfl⟩ | ⟨i, -, -, h⟩⟩ := step_next h
  · exact ⟨rfl, rfl⟩
  · exact ⟨rfl, rfl⟩
  · obtain hr | ⟨-, -, -, hp, -⟩ := interruptEntry_spec (beginStep s)
    · exact of_reset hr
    · exact hp
  · exact ⟨rfl, rfl⟩
  · exact ⟨rfl, rfl⟩
  · obtain hs | hr := exec_outcome h
    · exact hs.program
    · exact of_reset hr

/-- A step that takes an interrupt request with GIE set meets the spec's condition for the entry. -/
theorem entersInterrupt_of {s : State} (hw : s.wdtStuck = false) (hq : (inputNow s).irq = true) (hg : s.gie = true)
    (hr : s.run = .running ∨ (wakeSet s).irq = true) : EntersInterrupt s := by
  refine ⟨hw, hq, hg, ?_⟩
  cases hk : s.run with
  | running => exact .inl rfl
  | idle => exact .inr (.inl ⟨rfl, by simpa [wakeSet, hk] using hr⟩)
  | sleeping => exact .inr (.inr ⟨rfl, by simpa [wakeSet, hk] using hr⟩)

/-- Settles O20. -/
theorem shadowsChangeOnlyByCallOrEntry : Obligations.ShadowsChangeOnlyByCallOrEntry := by
  intro s t h hr hne
  have changed : ¬(t.wregsdw = s.wregsdw ∧ t.stasdw = s.stasdw ∧ t.bsrsdw = s.bsrsdw) := fun ⟨h1, h2, h3⟩ =>
    hne.elim (absurd h1) (·.elim (absurd h2) (absurd h3))
  obtain ⟨hw, ⟨-, rfl⟩ | ⟨-, rfl⟩ | ⟨hq, hg, hk, rfl⟩ | ⟨-, rfl | rfl⟩ | ⟨i, hb, hf, h⟩⟩ := step_next h
  · exact absurd ⟨_, rfl⟩ hr
  · exact absurd ⟨rfl, rfl, rfl⟩ changed
  · obtain hx | ⟨-, -, -, -, hs | hs⟩ := interruptEntry_spec (beginStep s)
    · exact absurd hx.wasReset hr
    · exact .inr ⟨entersInterrupt_of hw hq hg hk, hs⟩
    · exact absurd hs changed
  · exact absurd ⟨rfl, rfl, rfl⟩ changed
  · exact absurd ⟨rfl, rfl, rfl⟩ changed
  · obtain hs | ⟨n, rfl⟩ := (exec_shape h hr).shadows
    · exact absurd hs changed
    · exact .inl ⟨n, hb, hf⟩

/-- What the running CPU and its halt flags may become in a step that runs no IDLE and no SLP. -/
theorem haltClaims_of_kept {s t : State} {viaIdle viaSlp : Prop} (hr : s.run = .running → t.run = .running)
    (hi : t.idleb = s.idleb) (hp : t.pd = s.pd) :
    (s.run = .running → t.run ≠ .running → viaIdle ∧ t.run = .idle ∨ viaSlp ∧ t.run = .sleeping) ∧
      (s.idleb = false → t.idleb = true → viaIdle) ∧ (s.pd = false → t.pd = true → viaSlp) := by
  refine ⟨fun h hn => absurd (hr h) hn, fun h ht => ?_, fun h ht => ?_⟩
  · exact absurd ((hi.trans h).symm.trans ht) Bool.false_ne_true
  · exact absurd ((hp.trans h).symm.trans ht) Bool.false_ne_true

/-- Settles O21. -/
theorem runningLeftOnlyByIdleOrSleep : Obligations.RunningLeftOnlyByIdleOrSleep := by
  intro s t h hr
  obtain ⟨-, ⟨-, rfl⟩ | ⟨-, rfl⟩ | ⟨-, -, -, rfl⟩ | ⟨-, rfl | rfl⟩ | ⟨i, hb, hf, h⟩⟩ := step_next h
  · exact absurd ⟨_, rfl⟩ hr
  · exact haltClaims_of_kept id rfl rfl
  · obtain hx | ⟨hrun, hi, hp, -⟩ := interruptEntry_spec (beginStep s)
    · exact absurd hx.wasReset hr
    · exact haltClaims_of_kept (fun _ => hrun) hi hp
  · exact haltClaims_of_kept (fun _ => rfl) rfl rfl
  · exact haltClaims_of_kept id rfl rfl
  · have hs := exec_shape h hr
    refine ⟨fun hrun hn => ?_, fun hi ht => ?_, fun hp ht => ?_⟩
    · obtain hk | ⟨rfl, hk⟩ | ⟨rfl, hk⟩ := hs.run
      · exact absurd (hk.trans hrun) hn
      · exact .inl ⟨⟨hb, hf⟩, hk⟩
      · exact .inr ⟨⟨hb, hf⟩, hk⟩
    · obtain hk | rfl := hs.haltFlags.1 ht
      · exact absurd (hi.symm.trans hk) Bool.false_ne_true
      · exact ⟨hb, hf⟩
    · obtain hk | rfl := hs.haltFlags.2 ht
      · exact absurd (hp.symm.trans hk) Bool.false_ne_true
      · exact ⟨hb, hf⟩

end Sys2Proof.Proofs
end

section
/-! SUPPORT. The arithmetic of `10` R47 and R48: `add8` and `sub8` in exact arithmetic, and what follows for the
literal and the file arithmetic instructions. -/

namespace Sys2Proof.Proofs

open Sys2Proof.Machine Sys2Proof.Claims

/-- The sign bit of a byte, as a number's size. -/
theorem msb_iff (x : Byte) : x.msb = true ↔ 128 ≤ x.toNat := by simp [BitVec.msb_eq_decide]

theorem msb_eq_bit7 (x : Byte) : x.msb = x.getLsbD 7 := BitVec.msb_eq_getLsbD_last x

/-- A byte's signed value by its sign bit. -/
theorem toInt_cases (x : Byte) :
    (x.msb = false ∧ x.toInt = x.toNat ∧ x.toNat < 128) ∨
      (x.msb = true ∧ x.toInt = x.toNat - 256 ∧ 128 ≤ x.toNat) := by
  have hx := x.isLt
  rw [BitVec.msb_eq_decide, BitVec.toInt_eq_toNat_cond]
  by_cases h : x.toNat < 128
  · exact .inl ⟨by simpa using h, by simp; omega, h⟩
  · exact .inr ⟨by simpa using h, by simp; omega, by omega⟩

theorem beq_zero_iff (x : Byte) : (x == 0) = true ↔ x.toNat = 0 := by
  rw [beq_iff_eq, ← BitVec.toNat_inj]
  rfl

theorem add8_toNat (x y : Byte) (cin : Bool) : (add8 x y cin).r.toNat = (x.toNat + y.toNat + cin.toNat) % 256 := by
  simp [add8]

theorem add8_ov (x y : Byte) (cin : Bool) :
    (add8 x y cin).flags.ov = (x.msb == y.msb && (add8 x y cin).r.msb != x.msb) := rfl

theorem sub8_ov (x y : Byte) (bin : Bool) :
    (sub8 x y bin).flags.ov = (x.msb != y.msb && (sub8 x y bin).r.msb != x.msb) := rfl

theorem sub8_toNat (x y : Byte) (bin : Bool) :
    ((sub8 x y bin).r.toNat : Int) = ((x.toNat : Int) - y.toNat - bin.toNat) % 256 := by
  simp only [sub8, BitVec.toNat_ofInt]
  omega

/-- Signed overflow of a sum: equal signs, and another sign in the result. -/
theorem add8_overflow (x y : Byte) (cin : Bool) :
    (add8 x y cin).flags.ov = true ↔
      x.toInt + y.toInt + cin.toNat < -128 ∨ 127 < x.toInt + y.toInt + cin.toNat := by
  have hr := add8_toNat x y cin
  have hc := Bool.toNat_le cin
  rw [add8_ov]
  obtain ⟨hx, hxi, hxn⟩ | ⟨hx, hxi, hxn⟩ := toInt_cases x <;>
    obtain ⟨hy, hyi, hyn⟩ | ⟨hy, hyi, hyn⟩ := toInt_cases y <;>
    obtain ⟨hz, -, hzn⟩ | ⟨hz, -, hzn⟩ := toInt_cases (add8 x y cin).r <;>
    simp [hx, hy, hz, hxi, hyi] <;> omega

/-- Signed overflow of a difference: different signs, and in the result not the first one's. -/
theorem sub8_overflow (x y : Byte) (bin : Bool) :
    (sub8 x y bin).flags.ov = true ↔
      x.toInt - y.toInt - bin.toNat < -128 ∨ 127 < x.toInt - y.toInt - bin.toNat := by
  have hr := sub8_toNat x y bin
  have hb := Bool.toNat_le bin
  rw [sub8_ov]
  obtain ⟨hx, hxi, hxn⟩ | ⟨hx, hxi, hxn⟩ := toInt_cases x <;>
    obtain ⟨hy, hyi, hyn⟩ | ⟨hy, hyi, hyn⟩ := toInt_cases y <;>
    obtain ⟨hz, -, hzn⟩ | ⟨hz, -, hzn⟩ := toInt_cases (sub8 x y bin).r <;>
    simp [hx, hy, hz, hxi, hyi] <;> omega

theorem add8_isSum (x y : Byte) (cin : Bool) : IsSum x y cin (add8 x y cin).r (add8 x y cin).flags where
  value := add8_toNat x y cin
  carry := decide_eq_true_iff
  digit := decide_eq_true_iff
  negative := msb_iff _
  overflow := add8_overflow x y cin
  zero := beq_zero_iff _

theorem sub8_isDifference (x y : Byte) (bin : Bool) :
    IsDifference x y bin (sub8 x y bin).r (sub8 x y bin).flags where
  value := sub8_toNat x y bin
  carry := decide_eq_true_iff.trans (by omega)
  digit := decide_eq_true_iff.trans (by omega)
  negative := msb_iff _
  overflow := sub8_overflow x y bin
  zero := beq_zero_iff _

/-- Settles O25. -/
theorem addFormula : Obligations.AddFormula := by
  intro x y cin
  exact ⟨add8_isSum x y cin, by simp [add8_ov, msb_eq_bit7], msb_eq_bit7 _⟩

/-- Settles O26. -/
theorem subtractFormula : Obligations.SubtractFormula := by
  intro x y bin
  exact ⟨sub8_isDifference x y bin, by simp [sub8_ov, msb_eq_bit7], msb_eq_bit7 _⟩

/-- Settles O39: both are `add8` or `sub8` of W and the literal. -/
theorem literalArithmetic : Obligations.LiteralArithmetic := by
  intro s k
  exact ⟨⟨_, _, add8_isSum s.w k false, rfl⟩, ⟨_, _, sub8_isDifference k s.w false, rfl⟩⟩

/-! ## Bytes written at a resolved address -/

/-- The byte goes to a target that takes any byte. -/
theorem writeDirect_lands_takesByte {k : WriteKind} {s : State} {e : DataAddr} {v : Byte}
    (h : takesByte (targetOf s.cfg e) = true) : ∃ t, writeDirect k s e v = .next t ∧ Landed s t e v := by
  unfold writeDirect Landed
  generalize ht : targetOf s.cfg e = tg at h
  cases tg with
  | wreg => exact ⟨_, rfl, rfl⟩
  | ram => exact ⟨_, rfl, rfl, dmRead_dmWrite_same s e v, fun b hb => dmRead_dmWrite_other s v hb⟩
  | absent => exact absurd h (by decide)
  | reg r =>
    cases r with
    | bsrcn | fsr0h | fsr0l | fsr1h | fsr1l | prodh | prodl | tblptrh | tblptrl | tbldh | tbldl => exact ⟨_, rfl, rfl⟩
    | status | indf0 | indf1 | tosh | tosl | stkptr | pstatus | pclatl | sbmset1 | gieReg => exact absurd h (by decide)

/-- The low byte of the PC replaced. -/
theorem toNat_replaceLow (p : ProgAddr) (v : Byte) :
    (p.extractLsb' 8 6 ++ v).toNat = p.toNat / 256 * 256 + v.toNat := by
  have hp := p.isLt
  have hv := v.isLt
  rw [BitVec.toNat_append, ← Nat.shiftLeft_add_eq_or_of_lt hv]
  simp only [BitVec.extractLsb'_toNat, Nat.shiftRight_eq_div_pow, Nat.shiftLeft_eq]
  omega

/-- A read-modify-write of PCLATL replaces the low byte of the PC (`92` D13). -/
theorem writeDirect_lands_pclatl {k : WriteKind} {s : State} {e : DataAddr} {v : Byte} (hk : k ≠ .pure)
    (h : targetOf s.cfg e = .reg .pclatl) : ∃ t, writeDirect k s e v = .next t ∧ Landed s t e v := by
  simp only [writeDirect, Landed, h]
  cases k with
  | pure => exact absurd rfl hk
  | modify | modifyFlags | bitClear | bitSet => exact ⟨_, rfl, _, toNat_replaceLow s.pc v, rfl⟩

theorem writeDirect_lands {k : WriteKind} {s : State} {e : DataAddr} {v : Byte}
    (h : takesByte (targetOf s.cfg e) = true ∨ (targetOf s.cfg e = .reg .pclatl ∧ k ≠ .pure)) :
    ∃ t, writeDirect k s e v = .next t ∧ Landed s t e v :=
  h.elim writeDirect_lands_takesByte fun ⟨hp, hk⟩ => writeDirect_lands_pclatl hk hp

/-- A whole-byte write of a system register is refused (`20` R79 case 6). -/
theorem writeDirect_systemReg {k : WriteKind} {s : State} {e : DataAddr} {v : Byte} {q : Sfr}
    (hk : k = .pure ∨ k = .modify ∨ k = .modifyFlags) (hq : q ∈ systemRegs) (h : targetOf s.cfg e = .reg q) :
    writeDirect k s e v = .refused (.systemRegisterWrite q) := by
  simp only [writeDirect, h]
  simp only [systemRegs, List.mem_cons, List.not_mem_nil, or_false] at hq
  obtain rfl | rfl | rfl | rfl | rfl | rfl := hq <;> obtain rfl | rfl | rfl := hk <;> rfl

theorem memWrite_of_resolve {k : WriteKind} {s : State} {a e : DataAddr} {v : Byte} (h : resolve s a = .ok e) :
    memWrite k s a v = writeDirect k s e v := by
  simp [memWrite, h]

/-- A named register is always readable. -/
theorem memRead_reg {s : State} {a e : DataAddr} {r : Sfr} (h : resolve s a = .ok e)
    (ht : targetOf s.cfg e = .reg r) : memRead s a = .ok (readSfr s e r) := by
  simp [memRead, readDirect, h, ht]

/-! ## The rule of the flag-writing file instructions -/

/-- With d = 1 and a readable operand, a flag-writing file instruction is a write at the resolved address. -/
theorem fileFlagged_toFile {f : Byte} {a : Bank} {g : State → Byte → AluResult} {s : State} {x : Byte} {e : DataAddr}
    (hx : memRead (advance s 1) (effAddr f a s) = .ok x) (he : resolve s (effAddr f a s) = .ok e) :
    fileFlagged f .f a g s =
      writeDirect .modifyFlags { advance s 1 with status := (g s x).flags } e (g s x).r := by
  rw [fileFlagged, withByte_ok hx]
  exact memWrite_of_resolve (s := { advance s 1 with status := (g s x).flags }) he

/-- An instruction that is `fileFlagged` with results of which `R` holds keeps the whole rule of `40` R219. -/
theorem flaggedRule_of_fileFlagged {mk : Byte → Dest → Bank → Instr} {g : State → Byte → AluResult}
    {R : State → Byte → Byte → Flags → Prop} (hmk : ∀ f d a s, exec (mk f d a) s = fileFlagged f d a g s)
    (hR : ∀ s x, R s x (g s x).r (g s x).flags) : FlaggedRule mk R where
  toW s f a x hx := by
    refine ⟨_, _, hR s x, ?_⟩
    rw [hmk, fileFlagged, withByte_ok hx]
    rfl
  toF s f a x e hx he ht := by
    obtain ⟨t, hw, hl⟩ := writeDirect_lands (k := .modifyFlags) (v := (g s x).r)
      (s := { advance s 1 with status := (g s x).flags }) (ht.imp_right fun hp => ⟨hp, by decide⟩)
    exact ⟨_, _, t, hR s x, by rw [hmk, fileFlagged_toFile hx he, hw], hl⟩
  onStatus s f a e he ht := by
    rw [hmk, fileFlagged_toFile (memRead_reg (s := advance s 1) he ht) he]
    simp [writeDirect, ht, writeSfr]
  onSystem s f a e q he hq ht := by
    rw [hmk, fileFlagged_toFile (memRead_reg (s := advance s 1) he ht) he]
    exact writeDirect_systemReg (.inr (.inr rfl)) hq ht
  unreadable s f d a q hx := by
    rw [hmk, fileFlagged, withByte_error hx]

/-- Settles O27: each of the six is `fileFlagged` with `add8` or `sub8`. -/
theorem fileArithmetic : Obligations.FileArithmetic :=
  ⟨flaggedRule_of_fileFlagged (fun _ _ _ _ => rfl) fun s x => add8_isSum s.w x s.status.c,
    flaggedRule_of_fileFlagged (fun _ _ _ _ => rfl) fun s x => add8_isSum s.w x false,
    flaggedRule_of_fileFlagged (fun _ _ _ _ => rfl) fun _ x => sub8_isDifference x 1 false,
    flaggedRule_of_fileFlagged (fun _ _ _ _ => rfl) fun _ x => add8_isSum x 1 false,
    flaggedRule_of_fileFlagged (fun _ _ _ _ => rfl) fun s x => sub8_isDifference x s.w (!s.status.c),
    flaggedRule_of_fileFlagged (fun _ _ _ _ => rfl) fun s x => sub8_isDifference x s.w false⟩

end Sys2Proof.Proofs
end

section
/-! SUPPORT. Under a sound encoding, what was encoded decodes (`30` R100): a row is recognised by its fixed bits, no
other row has them, and a listed image is nobody else's. -/

namespace Sys2Proof.Proofs

open Sys2Proof.Machine Sys2Proof.Claims

/-! ## Rows -/

/-- Picking bits and placing them back keeps the bits at the places and leaves the fixed bits. -/
theorem testBit_image_pickBits {r : EncRow} (h : r.wf = true) (n q : Nat) :
    (r.image (pickBits r.places n)).testBit q = if q ∈ r.places then n.testBit q else r.fixed.testBit q := by
  obtain ⟨-, hn, hp, -⟩ := EncRow.wf_iff.mp h
  rw [testBit_image h]
  split
  · next hq =>
    obtain ⟨j, hj⟩ := List.mem_iff_getElem?.mp hq
    rw [(hp q hq).2, Bool.false_or, Bool.eq_iff_iff, testBit_placeBits hn]
    constructor
    · rintro ⟨k, hk, hv⟩
      rwa [testBit_pickBits, hk] at hv
    · intro hv
      exact ⟨j, hj, by rwa [testBit_pickBits, hj]⟩
  · next hq =>
    rw [Bool.eq_false_iff.mpr fun hb => hq (mem_of_testBit_placeBits hn hb), Bool.or_false]

/-- The image of a row shows its fixed bits wherever it has no place. -/
theorem testBit_image_fixed {r : EncRow} (h : r.wf = true) (v : Nat) {q : Nat} (hq : q ∉ r.places) :
    (r.image v).testBit q = r.fixed.testBit q := by
  obtain ⟨-, hn, -, -⟩ := EncRow.wf_iff.mp h
  rw [testBit_image h, Bool.eq_false_iff.mpr fun hb => hq (mem_of_testBit_placeBits hn hb), Bool.or_false]

/-- A first word is of a row exactly when it shows the row's fixed bits. -/
theorem firstMatches_iff {r : EncRow} (h : r.wf = true) (w : Word) :
    r.firstMatches w = true ↔ ∀ q < 16, q ∉ r.places → w.toNat.testBit q = r.fixed.testBit q := by
  unfold EncRow.firstMatches
  rw [beq_iff_eq, show 65536 = 2 ^ 16 from rfl]
  constructor
  · intro he q hq hp
    rw [← he, Nat.testBit_mod_two_pow, testBit_image_pickBits h]
    simp [hq, hp]
  · intro hb
    refine Nat.eq_of_testBit_eq fun q => ?_
    rw [Nat.testBit_mod_two_pow, testBit_image_pickBits h]
    by_cases hq : q < 16
    · by_cases hp : q ∈ r.places <;> simp [hq, hp, hb q]
    · have hw : w.toNat < 2 ^ q := lt_of_lt_of_le w.isLt (Nat.pow_le_pow_right (by decide) (Nat.le_of_not_lt hq))
      simp [hq, Nat.testBit_lt_two_pow hw]

/-- No word is of two rows that are told apart. -/
theorem not_firstMatches_of_apart {r q : EncRow} (hr : r.wf = true) (hq : q.wf = true) (ha : r.apart q = true)
    {w : Word} (hw : r.firstMatches w = true) : q.firstMatches w = false := by
  refine Bool.eq_false_iff.mpr fun hw' => ?_
  simp only [EncRow.apart, List.any_eq_true, List.mem_range, Bool.and_eq_true, Bool.not_eq_true',
    List.contains_eq_mem, decide_eq_false_iff_not, bne_iff_ne, ne_eq] at ha
  obtain ⟨p, hp, ⟨hpr, hpq⟩, hne⟩ := ha
  have hbit : r.fixed.testBit p = q.fixed.testBit p :=
    ((firstMatches_iff hr w).mp hw p hp hpr).symm.trans ((firstMatches_iff hq w).mp hw' p hp hpq)
  refine hne ?_
  simp only [Nat.testBit_eq_decide_div_mod_eq, decide_eq_decide] at hbit
  omega

/-! ## A sound table -/

/-- A sound table, in logic. -/
theorem rowsWf_iff {enc : Encoding} :
    enc.rowsWf = true ↔ enc.rows.map (·.op) = Encoding.rowsWf.allOps ∧ (∀ r ∈ enc.rows, r.wf = true) ∧
      enc.rows.Pairwise fun r q => r.apart q = true := by
  simp [Encoding.rowsWf, and_assoc]

theorem mem_allOps (o : Op) : o ∈ Encoding.rowsWf.allOps := by cases o <;> decide

/-- A sound table has a sound row for each form. -/
theorem rowFor_spec {enc : Encoding} (h : enc.rowsWf = true) (o : Op) :
    ∃ r, enc.rowFor o = some r ∧ r ∈ enc.rows ∧ r.op = o ∧ r.wf = true := by
  obtain ⟨hops, hwf, -⟩ := rowsWf_iff.mp h
  obtain ⟨q, hq, hqo⟩ := List.mem_map.mp (hops ▸ mem_allOps o)
  obtain ⟨r, hr⟩ := Option.isSome_iff_exists.mp
    (List.find?_isSome.mpr ⟨q, hq, by simpa using hqo⟩ : (enc.rowFor o).isSome)
  have hmem := List.mem_of_find?_eq_some hr
  exact ⟨r, hr, hmem, by simpa using List.find?_some hr, hwf r hmem⟩

/-- In a list whose members exclude each other under `p`, the one that meets `p` is found. -/
theorem find?_eq_of_pairwise {α : Type} {p : α → Bool} {l : List α} {r : α} (hr : r ∈ l) (hp : p r = true)
    (h : l.Pairwise fun a b => p a = true → p b = false) : l.find? p = some r := by
  induction l with
  | nil => cases hr
  | cons a l ih =>
    obtain ⟨ha, hl⟩ := List.pairwise_cons.mp h
    rcases List.mem_cons.mp hr with rfl | hr
    · exact List.find?_cons_of_pos hp
    · have hna : ¬p a = true := fun hpa => by simpa [hp] using ha r hr hpa
      rw [List.find?_cons_of_neg hna]
      exact ih hr hl

/-- In a sound table a first word belongs to the one row whose fixed bits it shows. -/
theorem rowOf_eq {enc : Encoding} (h : enc.rowsWf = true) {r : EncRow} (hr : r ∈ enc.rows) {w : Word}
    (hw : r.firstMatches w = true) : enc.rowOf w = some r := by
  obtain ⟨-, hwf, hap⟩ := rowsWf_iff.mp h
  refine find?_eq_of_pairwise hr hw (hap.imp_of_mem fun ha hb hab => ?_)
  exact not_firstMatches_of_apart (hwf _ ha) (hwf _ hb) hab

/-- The first word of a row's image is of the row. -/
theorem firstMatches_image {r : EncRow} (h : r.wf = true) (v : Nat) :
    r.firstMatches (.ofNat 16 (r.image v)) = true := by
  refine (firstMatches_iff h _).mpr fun q hq hp => ?_
  rw [BitVec.toNat_ofNat, Nat.testBit_mod_two_pow, testBit_image_fixed h v hp]
  simp [hq]

/-- A row reads its own image back. -/
theorem decodeBits_image {r : EncRow} {i : Instr} (h : r.wf = true) (ho : r.op = i.op) (hi : i.wf = true) :
    decodeBits r (r.image i.operands) = .ok i := by
  obtain ⟨hlt, hun⟩ := packing_of_every_instr i
  simp [decodeBits, pickBits_image h (v := i.operands) (ho ▸ hlt), ho, hun, hi]

/-- The table reads the image it gives (`30` R100). -/
theorem readRows_rowImage {enc : Encoding} (h : enc.rowsWf = true) {i : Instr} (hi : i.wf = true) :
    enc.readRows (enc.rowImage i) = .ok i := by
  obtain ⟨r, hfor, hmem, ho, hr⟩ := rowFor_spec h i.op
  have hof := rowOf_eq h hmem (firstMatches_image hr i.operands)
  have hlt := image_lt hr i.operands
  have hwords : r.op.words = i.words := by rw [ho]; rfl
  have hdec := decodeBits_image hr ho hi
  rcases Op.words_cases i.op with h1 | h2
  · have hi1 : i.words = 1 := h1
    rw [hwords, hi1] at hlt
    have hw : (BitVec.ofNat 16 (r.image i.operands)).toNat = r.image i.operands := Nat.mod_eq_of_lt hlt
    simp [Encoding.rowImage, Encoding.readRows, hfor, hi1, hof, hwords, hw, hdec]
  · have hi2 : i.words = 2 := h2
    rw [hwords, hi2] at hlt
    have hw : r.image i.operands % 65536 + 65536 * (r.image i.operands / 65536 % 65536) = r.image i.operands := by
      omega
    simp [Encoding.rowImage, Encoding.readRows, hfor, hi2, hof, hwords, hw, hdec]

/-! ## The list of images -/

/-- What a sound list of images gives: no key and no image twice, images of the right length, and none that the
table reads as an instruction outside the list. -/
theorem listedWf_spec {enc : Encoding} (h : enc.listedWf = true) :
    (enc.listed.map (·.1)).Nodup ∧ (enc.listed.map (·.2)).Nodup ∧
      ∀ p ∈ enc.listed, p.1.wf = true ∧ p.2.length = p.1.words ∧
        ∀ j, enc.readRows p.2 = .ok j → enc.isListed j = true := by
  simp only [Encoding.listedWf, Bool.and_eq_true, decide_eq_true_eq, List.all_eq_true] at h
  obtain ⟨⟨hkeys, himages⟩, hall⟩ := h
  refine ⟨hkeys, himages, fun p hp => ?_⟩
  obtain ⟨⟨hwf, hlen⟩, hread⟩ := hall p hp
  exact ⟨hwf, hlen, fun j hj => by rwa [hj] at hread⟩

/-- The words of a listed image decode to its instruction. -/
theorem decodeImage_listed {enc : Encoding} (h : enc.listedWf = true) {i : Instr} {ws : List Word}
    (hp : (i, ws) ∈ enc.listed) : enc.decodeImage ws = .ok i := by
  obtain ⟨-, hnd, hall⟩ := listedWf_spec h
  obtain ⟨hwf, hlen, -⟩ := hall _ hp
  obtain ⟨q, hq⟩ := Option.isSome_iff_exists.mp
    (List.find?_isSome.mpr ⟨_, hp, by simp⟩ : (enc.listed.find? fun q => decide (q.2 = ws)).isSome)
  have hqw : q.2 = ws := by simpa using List.find?_some hq
  have hqp : q = (i, ws) := List.inj_on_of_nodup_map hnd (List.mem_of_find?_eq_some hq) hp hqw
  simp [Encoding.decodeImage, hq, hqp, hwf, hlen]

/-- Words that the table reads as an instruction without an image of its own decode to it. -/
theorem decodeImage_of_readRows {enc : Encoding} (h : enc.listedWf = true) {i : Instr} {ws : List Word}
    (hi : enc.isListed i = false) (hr : enc.readRows ws = .ok i) : enc.decodeImage ws = .ok i := by
  obtain ⟨-, -, hall⟩ := listedWf_spec h
  have hnone : enc.listed.find? (fun q => decide (q.2 = ws)) = none := by
    refine List.find?_eq_none.mpr fun q hq hqw => ?_
    obtain ⟨-, -, hl⟩ := hall q hq
    simp only [decide_eq_true_eq] at hqw
    simpa [hi] using hl i (hqw ▸ hr)
  simp [Encoding.decodeImage, hnone, hr, hi]

/-- What decodes has the length of its instruction, under any encoding. -/
theorem decodeImage_words {enc : Encoding} {ws : List Word} {i : Instr} (h : enc.decodeImage ws = .ok i) :
    i.wf = true ∧ ws.length = i.words := by
  unfold Encoding.decodeImage at h
  split at h
  · split at h
    · next hp =>
      cases h
      exact hp
    · cases h
  · split at h
    · next j hj =>
      split at h
      · cases h
      · cases h
        exact readRows_ok hj
    · cases h

theorem encode_of_not_listed {enc : Encoding} {i : Instr} (h : enc.isListed i = false) :
    encode enc i = enc.rowImage i := by
  have hnone : enc.listed.find? (fun p => decide (p.1 = i)) = none := by
    refine List.find?_eq_none.mpr fun p hp hpi => ?_
    exact Bool.eq_false_iff.mp h (List.any_eq_true.mpr ⟨p, hp, hpi⟩)
  simp [encode, hnone]

/-- Under a sound encoding, the image of a well-formed instruction decodes to it (`30` R100). -/
theorem decodeImage_encode {enc : Encoding} (h : enc.wf = true) {i : Instr} (hi : i.wf = true) :
    enc.decodeImage (encode enc i) = .ok i := by
  obtain ⟨hrows, hlisted⟩ := Bool.and_eq_true_iff.mp h
  by_cases hl : enc.isListed i = true
  · obtain ⟨p, hp, rfl⟩ := List.mem_map.mp (isListed_iff.mp hl)
    rw [encode_listed (listedWf_spec hlisted).1 hp]
    exact decodeImage_listed hlisted hp
  · have hl := Bool.eq_false_iff.mpr hl
    rw [encode_of_not_listed hl]
    exact decodeImage_of_readRows hlisted hl (readRows_rowImage hrows hi)

/-! ## Fetch and step -/

theorem fetchAt_of_image {s : State} {a : Nat} {ws : List Word} {i : Instr} (h : imageAt s a = .ok ws)
    (hd : s.cfg.encoding.decodeImage ws = .ok i) : fetchAt s a = .ok i := by
  simp [fetchAt, h, hd]

theorem imageAt_first {s : State} {a : Nat} {w : Word} (hs : a < progSpace) (hp : a < s.cfg.progSize)
    (h : cellRead s.prog a = some { kind := .first, word := w }) : imageAt s a = .ok [w] := by
  simp [imageAt, hs, hp, h]

theorem imageAt_firstOfTwo {s : State} {a : Nat} {w w2 : Word} (hs : a + 1 < progSpace) (hp : a + 1 < s.cfg.progSize)
    (h : cellRead s.prog a = some { kind := .firstOfTwo, word := w })
    (h2 : cellRead s.prog (a + 1) = some { kind := .second, word := w2 }) : imageAt s a = .ok [w, w2] := by
  have hsecond : secondWordAt s a = some w2 := by simp [secondWordAt, hs, hp, h2]
  simp [imageAt, Nat.lt_of_succ_lt hs, Nat.lt_of_succ_lt hp, h, hsecond]

/-- At a quiet boundary the step is that of the instruction fetched. -/
theorem step_of_runs {s : State} {i : Instr} (h : Runs s i) : step s = exec i (beginStep s) := by
  obtain ⟨⟨hstuck, hrun, hpast, hreset, hwdt, hirq⟩, hf⟩ := h
  have hw : ((inputNow s).wdt && s.cfg.wdtEnabled) = false := by
    cases hb : (inputNow s).wdt with
    | false => rfl
    | true => exact hwdt hb
  have hq : ((inputNow s).irq && s.gie) = false := by
    cases hb : (inputNow s).irq with
    | false => rfl
    | true => exact hirq hb
  simp [step, runInstr, hstuck, hreset, hw, hrun, hq, hpast, hf]

/-- The same, with the state of `beginStep` written out. -/
theorem step_of_runs_spelled {s : State} {i : Instr} (h : Runs s i) :
    ∃ n, step s = exec i { s with inputs := s.inputs.tail, tick := s.tick + 1, wdt := n } :=
  ⟨_, step_of_runs h⟩

/-- Settles O6. -/
theorem stepRunsDecodedInstruction : Obligations.StepRunsDecodedInstruction := by
  intro s i hb hsize
  refine ⟨fun w hw hd => ?_, fun w w2 hw hsize2 hspace hw2 hd => ?_⟩
  · exact step_of_runs_spelled ⟨hb, fetchAt_of_image (imageAt_first s.pc.isLt hsize hw) hd⟩
  · exact step_of_runs_spelled ⟨hb, fetchAt_of_image (imageAt_firstOfTwo hspace hsize2 hw hw2) hd⟩

/-- Words placed in the image are fetched. -/
theorem imageAt_of_placedAt {s : State} {a : Nat} {i : Instr} (henc : s.cfg.encoding.wf = true) (hi : i.wf = true)
    (hsize : s.cfg.progSize ≤ progSpace) (h : PlacedAt s a i) : imageAt s a = .ok (encode s.cfg.encoding i) := by
  obtain ⟨hfit, hcells⟩ := h
  have hlen := (decodeImage_words (decodeImage_encode henc hi)).2
  split at hcells
  · next w hw =>
    rw [hw] at hlen ⊢
    simp only [List.length_cons, List.length_nil] at hlen
    exact imageAt_first (by omega) (by omega) hcells
  · next w w2 hw =>
    rw [hw] at hlen ⊢
    simp only [List.length_cons, List.length_nil] at hlen
    exact imageAt_firstOfTwo (by omega) (by omega) hcells.1 hcells.2
  · exact hcells.elim

/-- Settles O7: the placed words are the encoder's, and those decode to the instruction. -/
theorem stepRunsPlacedInstruction : Obligations.StepRunsPlacedInstruction := by
  intro s i henc hsize hi hb hp
  exact step_of_runs_spelled
    ⟨hb, fetchAt_of_image (imageAt_of_placedAt henc hi hsize hp) (decodeImage_encode henc hi)⟩

end Sys2Proof.Proofs
end

section
/-! SUPPORT. Reads and writes of data space (`20` R76 to R79, R87): which address an access is performed on, what each
kind of address answers, and that a byte written is read back. -/

namespace Sys2Proof.Proofs

open Sys2Proof.Machine Sys2Proof.Claims

/-! ## Addresses -/

/-- Three bits over a byte, as a number. -/
theorem toNat_bankOver (b : BitVec 3) (f : Byte) : (b ++ f : DataAddr).toNat = b.toNat * 256 + f.toNat := by
  rw [BitVec.toNat_append, ← Nat.shiftLeft_add_eq_or_of_lt f.isLt, Nat.shiftLeft_eq]

/-- Settles O59: the operand widened, or the bank put in front of it. -/
theorem effectiveAddress : Obligations.EffectiveAddress := by
  intro f s
  have hf := f.isLt
  refine ⟨?_, toNat_bankOver s.bsrcn f⟩
  rw [effAddr, BitVec.toNat_setWidth]
  omega

/-- The pointer of FSRx as a number: three bits of the high half over the low half. -/
theorem toNat_pointer (h l : Byte) : (h.setWidth 3 ++ l : DataAddr).toNat = h.toNat % 8 * 256 + l.toNat := by
  rw [toNat_bankOver, BitVec.toNat_setWidth]

/-- A pointer to no INDFx is followed. -/
theorem followPtr_direct {s : State} {p : DataAddr} (h0 : targetOf s.cfg p ≠ .reg .indf0)
    (h1 : targetOf s.cfg p ≠ .reg .indf1) : followPtr s p = .ok p := by
  unfold followPtr
  split <;> simp_all

/-- A pointer to INDFx is not (`92` D11). -/
theorem followPtr_indf {s : State} {p : DataAddr}
    (h : targetOf s.cfg p = .reg .indf0 ∨ targetOf s.cfg p = .reg .indf1) :
    followPtr s p = .error (.indfSelfReference p) := by
  obtain h | h := h <;> simp [followPtr, h]

/-- An access to INDFx is performed where FSRx points, if anywhere (`20` R77). -/
theorem resolve_indf {s : State} {a p : DataAddr}
    (h : (targetOf s.cfg a = .reg .indf0 ∧ p.toNat = s.fsr0h.byte.toNat % 8 * 256 + s.fsr0l.toNat) ∨
      (targetOf s.cfg a = .reg .indf1 ∧ p.toNat = s.fsr1h.byte.toNat % 8 * 256 + s.fsr1l.toNat)) :
    resolve s a = followPtr s p := by
  obtain ⟨ha, hp⟩ | ⟨ha, hp⟩ := h
  · have : p = fsr0Ptr s := BitVec.eq_of_toNat_eq (hp.trans (toNat_pointer _ _).symm)
    simp [resolve, ha, this]
  · have : p = fsr1Ptr s := BitVec.eq_of_toNat_eq (hp.trans (toNat_pointer _ _).symm)
    simp [resolve, ha, this]

/-! ## Accesses by what the address resolves to -/

theorem memRead_of_resolve {s : State} {a e : DataAddr} (h : resolve s a = .ok e) : memRead s a = readDirect s e := by
  simp [memRead, h]

theorem memRead_unresolved {s : State} {a : DataAddr} {q : Fault} (h : resolve s a = .error q) :
    memRead s a = .error q := by
  simp [memRead, h]

theorem memWrite_unresolved {k : WriteKind} {s : State} {a : DataAddr} {v : Byte} {q : Fault}
    (h : resolve s a = .error q) : memWrite k s a v = .fault q := by
  simp [memWrite, h]

/-- Settles O60: both accesses go by the resolved address, and that is the pointer or the fault. -/
theorem indirectAccess : Obligations.IndirectAccess := by
  intro s a p h
  have ha := resolve_indf h
  refine ⟨fun ⟨h0, h1⟩ => ?_, fun hp => ?_⟩
  · have hap : resolve s a = .ok p := ha.trans (followPtr_direct h0 h1)
    have hpp : resolve s p = .ok p := resolve_direct h0 h1
    exact ⟨(memRead_of_resolve hap).trans (memRead_of_resolve hpp).symm,
      fun k v => (memWrite_of_resolve hap).trans (memWrite_of_resolve hpp).symm⟩
  · have hf : resolve s a = .error (.indfSelfReference p) := ha.trans (followPtr_indf hp)
    exact ⟨memRead_unresolved hf, fun k v => memWrite_unresolved hf⟩

/-! ## Reads -/

theorem readDirect_wreg {s : State} {e : DataAddr} (h : targetOf s.cfg e = .wreg) : readDirect s e = .ok s.w := by
  simp [readDirect, h]

theorem readDirect_reg {s : State} {e : DataAddr} {r : Sfr} (h : targetOf s.cfg e = .reg r) :
    readDirect s e = .ok (readSfr s e r) := by
  simp [readDirect, h]

theorem readDirect_absent {s : State} {e : DataAddr} (h : targetOf s.cfg e = .absent) :
    readDirect s e = .error (.unimplementedAddress e) := by
  simp [readDirect, h]

/-- A plain cell answers the byte it holds. -/
theorem readDirect_ram_iff {s : State} {e : DataAddr} {x : Byte} (h : targetOf s.cfg e = .ram) :
    readDirect s e = .ok x ↔ dmRead s e = some x := by
  cases hd : dmRead s e <;> simp [readDirect, h, hd]

theorem readDirect_unwritten {s : State} {e : DataAddr} (h : targetOf s.cfg e = .ram) (hd : dmRead s e = none) :
    readDirect s e = .error (.unwrittenCell e) := by
  simp [readDirect, h, hd]

/-- A plain cell is accessed itself. -/
theorem memRead_ram_iff {s : State} {a : DataAddr} {x : Byte} (h : targetOf s.cfg a = .ram) :
    memRead s a = .ok x ↔ dmRead s a = some x := by
  rw [memRead_of_resolve (resolve_direct (by simp [h]) (by simp [h])), readDirect_ram_iff h]

/-! ## Writes -/

/-- A write through data space leaves every byte but the plain cell it resolves to. -/
theorem dmRead_memWrite_other {k : WriteKind} {s t : State} {a b : DataAddr} {v : Byte}
    (h : memWrite k s a v = .next t) (hb : ∀ e, resolve s a = .ok e → targetOf s.cfg e = .ram → b ≠ e) :
    dmRead t b = dmRead s b := by
  obtain hm | ⟨e, he, ht, hm⟩ := memWrite_mem h
  · rw [dmRead, hm, dmRead]
  · have hn : b.toNat ≠ e.toNat := fun hbe => hb e he ht (BitVec.eq_of_toNat_eq hbe)
    rw [dmRead, hm, cellRead_cellWrite_other _ _ hn, dmRead]

/-- STATUS takes a byte from every write but that of a flag-writing instruction (`20` R79 case 5). -/
theorem writeDirect_lands_status {k : WriteKind} {s : State} {e : DataAddr} {v : Byte} (hk : k ≠ .modifyFlags)
    (h : targetOf s.cfg e = .reg .status) : ∃ t, writeDirect k s e v = .next t ∧ Landed s t e v := by
  simp only [writeDirect, Landed, h]
  cases k with
  | modifyFlags => exact absurd rfl hk
  | pure | modify | bitClear | bitSet => exact ⟨_, rfl, flagsOfByte s.cfg.bitpos v, ⟨rfl, rfl, rfl, rfl, rfl⟩, rfl⟩

theorem writeDirect_pure_pclatl {s : State} {e : DataAddr} {v : Byte} (h : targetOf s.cfg e = .reg .pclatl) :
    writeDirect .pure s e v = .refused .pclatlPureWrite := by
  simp [writeDirect, h, writeSfr]

theorem writeDirect_absent {k : WriteKind} {s : State} {e : DataAddr} {v : Byte} (h : targetOf s.cfg e = .absent) :
    writeDirect k s e v = .fault (.unimplementedAddress e) := by
  simp [writeDirect, h]

/-- A byte that landed at a plain cell, W or an 8-bit register is what stands there (`20` R87). -/
theorem readDirect_of_landed {s t : State} {a : DataAddr} {v : Byte} (hc : t.cfg = s.cfg)
    (ha : targetOf s.cfg a ∈ [Target.ram, .wreg, .reg .fsr0l, .reg .fsr1l, .reg .prodh, .reg .prodl, .reg .tblptrl,
      .reg .tbldh, .reg .tbldl]) (hl : Landed s t a v) : readDirect t a = .ok v := by
  unfold readDirect
  unfold Landed at hl
  rw [hc]
  generalize targetOf s.cfg a = tg at ha hl ⊢
  cases tg with
  | ram =>
    obtain ⟨-, hv, -⟩ := hl
    simp [hv]
  | wreg => simp [show t = { s with w := v } from hl]
  | absent => exact absurd ha (by decide)
  | reg r =>
    cases r with
    | fsr0l | fsr1l | prodh | prodl | tblptrl | tbldh | tbldl =>
      dsimp only at hl
      rw [hl]
      rfl
    | status | bsrcn | fsr0h | fsr1h | indf0 | indf1 | tblptrh | tosh | tosl | stkptr | pstatus | pclatl | sbmset1
    | gieReg => exact absurd ha (by decide)

/-- Settles O57: the byte lands at the address itself, and no other plain cell is touched. -/
theorem readBackWhatWasWritten : Obligations.ReadBackWhatWasWritten := by
  intro k s a v ha
  have hbyte : takesByte (targetOf s.cfg a) = true ∧ targetOf s.cfg a ≠ .reg .indf0 ∧
      targetOf s.cfg a ≠ .reg .indf1 := by
    generalize targetOf s.cfg a = tg at ha
    revert tg
    decide
  obtain ⟨htake, h0, h1⟩ := hbyte
  have hres : resolve s a = .ok a := resolve_direct h0 h1
  obtain ⟨t, hw, hl⟩ := writeDirect_lands_takesByte (k := k) (v := v) htake
  have hw : memWrite k s a v = .next t := (memWrite_of_resolve hres).trans hw
  obtain ⟨-, -, hcore, -⟩ := memWrite_next hw
  refine ⟨t, hw, ?_, fun b x hne hram hx => ?_⟩
  · have hrest : resolve t a = .ok a := resolve_direct (hcore.cfg ▸ h0) (hcore.cfg ▸ h1)
    rw [memRead_of_resolve hrest, readDirect_of_landed hcore.cfg ha hl]
  · have hb : dmRead t b = dmRead s b :=
      dmRead_memWrite_other hw fun e he _ => Except.ok.inj (hres.symm.trans he) ▸ hne
    rw [memRead_ram_iff (hcore.cfg ▸ hram), hb]
    exact (memRead_ram_iff hram).mp hx

/-- MVFF with a readable source is a pure write at what fd resolves to (`92` D27). -/
theorem mvff_of_read {s : State} {fs fd : DataAddr} {x : Byte} (hx : memRead (advance s 2) fs = .ok x) :
    exec (.mvff fs fd) s = memWrite .pure (advance s 2) fd x :=
  withByte_ok hx

/-- Settles O34: the write after the read, case by case over what stands at the resolved address. -/
theorem moveFileToFile : Obligations.MoveFileToFile := by
  intro s fs fd
  refine ⟨fun q hq => withByte_error hq, fun x hx => ⟨fun q hq => ?_, fun e he => ?_⟩⟩
  · rw [mvff_of_read hx]
    exact memWrite_unresolved (s := advance s 2) hq
  · have hw : exec (.mvff fs fd) s = writeDirect .pure (advance s 2) e x :=
      (mvff_of_read hx).trans (memWrite_of_resolve (s := advance s 2) he)
    rw [hw]
    refine ⟨fun ht => ?_, fun ht => ?_, fun q hq ht => ?_, fun ht => ?_⟩
    · obtain ht | ht := ht
      · exact writeDirect_lands_takesByte ht
      · exact writeDirect_lands_status (by decide) ht
    · exact writeDirect_pure_pclatl ht
    · exact writeDirect_systemReg (.inl rfl) hq ht
    · exact writeDirect_absent ht

end Sys2Proof.Proofs
end

section
/-! SUPPORT. What one instruction can do to data memory, said once for all 67 forms: a byte other than the plain cell
its write operand resolves to stays (`20` R79 to R81, R84). -/

namespace Sys2Proof.Proofs

open Sys2Proof.Machine Sys2Proof.Claims

/-- From `s` to `t` every byte of data memory stays but the plain cell the instruction writes at. -/
def KeepsBytes (i : Instr) (s t : State) : Prop :=
  ∀ b : DataAddr, (∀ e, WritesAt s i e → targetOf s.cfg e = .ram → b ≠ e) → dmRead t b = dmRead s b

/-- An instruction raises a reset or keeps the other bytes. -/
def MemOutcome (i : Instr) (s t : State) : Prop := KeepsBytes i s t ∨ WasReset t

theorem keepsBytes_of_mem_eq {i : Instr} {s t : State} (h : t.mem = s.mem) : KeepsBytes i s t :=
  fun b _ => by rw [dmRead, h, dmRead]

/-- Setting the PC touches no byte. -/
theorem KeepsBytes.setPc {i : Instr} {s t : State} (h : KeepsBytes i s t) (p : ProgAddr) :
    KeepsBytes i s (setPc t p) := h

/-- A write through the write operand, from a state with the memory, product and pointers of `s`. -/
theorem keepsBytes_of_memWrite {i : Instr} {k : WriteKind} {s u t : State} {a : DataAddr} {v : Byte}
    (h : memWrite k u a v = .next t) (ha : writeOperand s i = some a) (hr : resolve u a = resolve s a)
    (hc : u.cfg = s.cfg) (hm : u.mem = s.mem) : KeepsBytes i s t := by
  intro b hb
  have hu : dmRead t b = dmRead u b :=
    dmRead_memWrite_other h fun e he ht => hb e (writesAt_of_resolve ha hr he) (hc ▸ ht)
  rw [hu, dmRead, hm, dmRead]

theorem keepsBytes_of_dest {i : Instr} {k : WriteKind} {d : Dest} {s u t : State} {ea : DataAddr} {v : Byte}
    (h : dest k d ea v u = .next t) (hf : d = .f → writeOperand s i = some ea) (hr : resolve u ea = resolve s ea)
    (hc : u.cfg = s.cfg) (hm : u.mem = s.mem) : KeepsBytes i s t := by
  obtain ⟨-, rfl⟩ | ⟨hd, h⟩ := dest_next h
  · exact keepsBytes_of_mem_eq hm
  · exact keepsBytes_of_memWrite h (hf hd) hr hc hm

/-! ## The families' shapes -/

theorem keepsBytes_of_fileFlagged {i : Instr} {f : Byte} {d : Dest} {a : Bank} {g : State → Byte → AluResult}
    {s t : State} (h : fileFlagged f d a g s = .next t)
    (hf : d = .f → writeOperand s i = some (effAddr f a s)) : KeepsBytes i s t := by
  obtain ⟨x, -, h⟩ := fileFlagged_next h
  exact keepsBytes_of_dest h hf rfl rfl rfl

theorem keepsBytes_of_fileUnflagged {i : Instr} {f : Byte} {d : Dest} {a : Bank} {g : Byte → Byte} {s t : State}
    (h : fileUnflagged f d a g s = .next t) (hf : d = .f → writeOperand s i = some (effAddr f a s)) :
    KeepsBytes i s t := by
  obtain ⟨x, -, h⟩ := fileUnflagged_next h
  exact keepsBytes_of_dest h hf rfl rfl rfl

theorem keepsBytes_of_countSkip {i : Instr} {f : Byte} {d : Dest} {a : Bank} {g : Byte → Byte} {c : Byte → Bool}
    {s t : State} (h : countSkip f d a g c s = .next t) (hf : d = .f → writeOperand s i = some (effAddr f a s)) :
    KeepsBytes i s t := by
  obtain ⟨x, u, -, hd, ht⟩ := countSkip_next h
  have hu : KeepsBytes i s u := keepsBytes_of_dest hd hf rfl rfl rfl
  obtain rfl | ⟨p, rfl⟩ := ht
  · exact hu
  · exact hu.setPc p

theorem keepsBytes_of_fileBit {i : Instr} {k : WriteKind} {f : Byte} {a : Bank} {g : Byte → Byte} {s t : State}
    (h : fileBit k f a g s = .next t) (ha : writeOperand s i = some (effAddr f a s)) : KeepsBytes i s t := by
  obtain ⟨x, -, h⟩ := fileBit_next h
  exact keepsBytes_of_memWrite h ha rfl rfl rfl

theorem testSkip_mem {f : Byte} {a : Bank} {c : Byte → Bool} {s t : State} (h : testSkip f a c s = .next t) :
    t.mem = s.mem := by
  obtain ⟨x, -, rfl | ⟨p, rfl⟩⟩ := testSkip_next h <;> rfl

theorem jumpIf_mem {c : Bool} {n : BitVec 8} {s t : State} (h : jumpIf c n s = .next t) : t.mem = s.mem := by
  cases c <;> cases h <;> rfl

/-! ## The stack -/

/-- A push moves no byte of data memory, nor does what follows it, unless the chip resets. -/
theorem memOutcome_of_push {i : Instr} {s u : State} {v : ProgAddr} {k : State → State} (hm : u.mem = s.mem)
    (hk : ∀ x, (k x).mem = x.mem) : MemOutcome i s (pushThen u v k) := by
  obtain hr | ⟨x, hx, h⟩ := pushThen_spec (s := u) (v := v) (k := k) rfl
  · exact .inr hr.wasReset
  · refine .inl (keepsBytes_of_mem_eq ?_)
    rw [h, hk, hx, hm]

theorem memOutcome_of_pop {i : Instr} {s t : State} {k : State → State} (h : popThen s k = .next t)
    (hk : ∀ x, (k x).mem = x.mem) : MemOutcome i s t := by
  obtain hr | ⟨p, rfl⟩ := popThen_spec h
  · exact .inr hr.wasReset
  · exact .inl (keepsBytes_of_mem_eq (hk _))

/-! ## Every instruction -/

/-- Every instruction that goes on keeps the other bytes, or has raised a reset. -/
theorem exec_memOutcome {i : Instr} {s t : State} (h : exec i s = .next t) : MemOutcome i s t := by
  cases i with
  | addc | addf | andf | arlc | arrc | comf | dcf | inf | iorf | rlf | rlfc | rrf | rrfc | subc | subf | xorf =>
    simp only [exec] at h
    exact .inl (keepsBytes_of_fileFlagged h (by rintro rfl; rfl))
  | swpf =>
    simp only [exec] at h
    exact .inl (keepsBytes_of_fileUnflagged h (by rintro rfl; rfl))
  | dcsuz | dcsz | insuz | insz =>
    simp only [exec] at h
    exact .inl (keepsBytes_of_countSkip h (by rintro rfl; rfl))
  | bcf | bsf | btgf =>
    simp only [exec] at h
    exact .inl (keepsBytes_of_fileBit h rfl)
  | clrf | setf =>
    simp only [exec] at h
    exact .inl (keepsBytes_of_memWrite h rfl rfl rfl rfl)
  | mvff =>
    obtain ⟨x, -, h⟩ := withByte_next h
    exact .inl (keepsBytes_of_memWrite h rfl rfl rfl rfl)
  | mvf f d a =>
    cases d with
    | w =>
      obtain ⟨x, -, h⟩ := withByte_next h
      cases h
      exact .inl (keepsBytes_of_mem_eq rfl)
    | f => exact .inl (keepsBytes_of_memWrite h rfl rfl rfl rfl)
  | mulf =>
    obtain ⟨x, -, h⟩ := withByte_next h
    cases h
    exact .inl (keepsBytes_of_mem_eq rfl)
  | cpse | cpsg | cpsl | tfsz | btss | btsz =>
    simp only [exec] at h
    exact .inl (keepsBytes_of_mem_eq (testSkip_mem h))
  | jc | jnc | jn | jnn | jo | jno | jz | jnz =>
    simp only [exec] at h
    exact .inl (keepsBytes_of_mem_eq (jumpIf_mem h))
  | ldpr k f => cases f <;> cases h <;> exact .inl (keepsBytes_of_mem_eq rfl)
  | addl | andl | iorl | subl | xorl | mvl | mull | lbsr | jmp | rj | nop | pop | cwdt | idle | slp | mvlp | tblr
  | tblrInc =>
    cases h
    exact .inl (keepsBytes_of_mem_eq rfl)
  | call n sh => cases h; exact memOutcome_of_push (by cases sh <;> rfl) fun _ => rfl
  | rcall => cases h; exact memOutcome_of_push rfl fun _ => rfl
  | ret sh =>
    simp only [exec, execRet] at h
    exact memOutcome_of_pop h fun _ => by cases sh <;> rfl
  | reti sh =>
    simp only [exec, execReti] at h
    exact memOutcome_of_pop h fun _ => by cases sh <;> rfl
  | retl =>
    simp only [exec, execRetl] at h
    exact memOutcome_of_pop h fun _ => rfl

/-- Settles O22: a reset is excluded, so the bytes stay. -/
theorem storesOnlyAtDestination : Obligations.StoresOnlyAtDestination := by
  intro i s t h hr
  exact (exec_memOutcome h).resolve_right hr

end Sys2Proof.Proofs
end

section
/-! SUPPORT. The bits and bytes of the named registers as a read shows them (`20` R78; `10` R32, R33; `92` D3): the named
bits at the product's positions, the rest open. -/

namespace Sys2Proof.Proofs

open Sys2Proof.Machine Sys2Proof.Claims

/-! ## Bits set in a byte -/

theorem getLsbD_putBit_same (v : Byte) {p : Nat} (b : Bool) (hp : p < 8) : (putBit v p b).getLsbD p = b := by
  cases b <;> simp [putBit, hp]

theorem getLsbD_putBit_other (v : Byte) {p k : Nat} (b : Bool) (h : p ≠ k) :
    (putBit v p b).getLsbD k = v.getLsbD k := by
  cases b with
  | true => simp [putBit, BitVec.getLsbD_twoPow, h]
  | false => simpa [putBit, BitVec.getLsbD_twoPow, h] using v.lt_of_getLsbD

/-- A bit at none of the listed positions stays. -/
theorem getLsbD_putBits_other (v : Byte) {l : List (Fin 8 × Bool)} {k : Nat} (h : ∀ q ∈ l, q.1.val ≠ k) :
    (putBits v l).getLsbD k = v.getLsbD k := by
  induction l generalizing v with
  | nil => rfl
  | cons q l ih =>
    obtain ⟨hq, hl⟩ := List.forall_mem_cons.mp h
    exact (ih _ hl).trans (getLsbD_putBit_other v q.2 hq)

/-- At pairwise distinct positions each listed bit is what it was set to. -/
theorem getLsbD_putBits_of_mem (v : Byte) {l : List (Fin 8 × Bool)} {p : Fin 8} {b : Bool}
    (hl : (l.map (·.1)).Nodup) (h : (p, b) ∈ l) : (putBits v l).getLsbD p = b := by
  induction l generalizing v with
  | nil => exact absurd h List.not_mem_nil
  | cons q l ih =>
    obtain ⟨hq, hl⟩ := List.nodup_cons.mp hl
    obtain rfl | h := List.mem_cons.mp h
    · have hrest : ∀ r ∈ l, r.1.val ≠ p.val := fun r hr hrp =>
        hq (List.mem_map.mpr ⟨r, hr, Fin.ext hrp⟩)
      exact (getLsbD_putBits_other _ hrest).trans (getLsbD_putBit_same v b p.isLt)
    · exact ih _ hl h

/-- Bits set at or above `w` leave the number below untouched. -/
theorem putBits_mod (v : Byte) {l : List (Fin 8 × Bool)} {w : Nat} (h : ∀ q ∈ l, w ≤ q.1.val) :
    (putBits v l).toNat % 2 ^ w = v.toNat % 2 ^ w := by
  refine Nat.eq_of_testBit_eq fun k => ?_
  rw [Nat.testBit_mod_two_pow, Nat.testBit_mod_two_pow]
  by_cases hk : k < w
  · have := getLsbD_putBits_other v (l := l) (k := k) fun q hq => by have := h q hq; omega
    simpa [hk, BitVec.getLsbD] using this
  · simp [hk]

/-- The low bits of `lowUnder` are those of the value put there. -/
theorem lowUnder_mod {w : Nat} (u v : Byte) (hw : w ≤ 8) : (lowUnder w u v).toNat % 2 ^ w = v.toNat % 2 ^ w := by
  have hdvd : 2 ^ w ∣ 2 ^ 8 := Nat.pow_dvd_pow 2 hw
  rw [lowUnder, BitVec.toNat_ofNat, Nat.mod_mod_of_dvd _ hdvd, Nat.add_mul_mod_self_right, Nat.mod_mod]

/-- A register with open upper bits shows its low bits, and the whole byte where none are open (`93` U12). -/
theorem show_bits (u : UpperReg) {keep : Nat} (bus : Byte) (hk : keep ≤ 8) :
    (u.show keep bus).toNat % 2 ^ keep = u.byte.toNat % 2 ^ keep ∧ (u.hiOpen = false → u.show keep bus = u.byte) := by
  cases ho : u.hiOpen with
  | true => simpa [UpperReg.show, ho] using lowUnder_mod bus u.byte hk
  | false => simp [UpperReg.show, ho]

/-! ## A sound product's bit positions -/

/-- What `bitPosWf` says of a product, as propositions (`92` D3; `10` R33). -/
structure SoundBits (c : Cfg) : Prop where
  status : [c.bitpos.c, c.bitpos.dc, c.bitpos.n, c.bitpos.ov, c.bitpos.z].Nodup
  stkptr : [c.bitpos.stkfl, c.bitpos.stkov, c.bitpos.stkun].Nodup
  pstatus : [c.bitpos.skerr, c.bitpos.timeOut, c.bitpos.idleb, c.bitpos.pd].Nodup
  depth : c.stackDepth < 2 ^ c.bitpos.ptrWidth
  field : ∀ p ∈ [c.bitpos.stkfl, c.bitpos.stkov, c.bitpos.stkun], c.bitpos.ptrWidth ≤ p.val

theorem soundBits_of_cfgWf {c : Cfg} (h : cfgWf c = true) : SoundBits c := by
  simp only [cfgWf, bitPosWf, Bool.and_eq_true, decide_eq_true_eq, List.all_eq_true] at h
  obtain ⟨⟨⟨⟨_, ⟨⟨⟨hs, hk⟩, hp⟩, hd⟩, hf⟩, -⟩, -⟩, -⟩ := h
  exact ⟨hs, hk, hp, hd, hf⟩

/-! ## What each register shows -/

/-- STATUS shows its five flags (`10` R23). -/
theorem readSfr_status {s : State} (hb : SoundBits s.cfg) (e : DataAddr) :
    (readSfr s e .status).getLsbD s.cfg.bitpos.c = s.status.c ∧
      (readSfr s e .status).getLsbD s.cfg.bitpos.dc = s.status.dc ∧
      (readSfr s e .status).getLsbD s.cfg.bitpos.n = s.status.n ∧
      (readSfr s e .status).getLsbD s.cfg.bitpos.ov = s.status.ov ∧
      (readSfr s e .status).getLsbD s.cfg.bitpos.z = s.status.z := by
  refine ⟨?_, ?_, ?_, ?_, ?_⟩ <;> exact getLsbD_putBits_of_mem _ hb.status (by simp)

/-- STKPTR's flags (`10` R33). -/
theorem readSfr_stkptr_flags {s : State} (hb : SoundBits s.cfg) (e : DataAddr) :
    (readSfr s e .stkptr).getLsbD s.cfg.bitpos.stkfl = s.stkfl ∧
      (readSfr s e .stkptr).getLsbD s.cfg.bitpos.stkov = s.stkov ∧
      (readSfr s e .stkptr).getLsbD s.cfg.bitpos.stkun = s.stkun := by
  refine ⟨?_, ?_, ?_⟩ <;> exact getLsbD_putBits_of_mem _ hb.stkptr (by simp)

/-- STKPTR's pointer field is SP: it lies below the flags and is wide enough for every level (`10` R33). -/
theorem readSfr_stkptr_pointer {s : State} (hb : SoundBits s.cfg) (hs : stackWf s) (e : DataAddr) :
    (readSfr s e .stkptr).toNat % 2 ^ s.cfg.bitpos.ptrWidth = s.sp := by
  have hw : s.cfg.bitpos.ptrWidth ≤ 8 := (hb.field _ List.mem_cons_self).trans s.cfg.bitpos.stkfl.isLt.le
  have hsp : s.sp < 2 ^ s.cfg.bitpos.ptrWidth := hs.2.trans_lt hb.depth
  have hbyte : s.sp < 2 ^ 8 := hsp.trans_le (Nat.pow_le_pow_right two_pos hw)
  calc (readSfr s e .stkptr).toNat % 2 ^ s.cfg.bitpos.ptrWidth
      = (lowUnder s.cfg.bitpos.ptrWidth (Config.openByte s.tick (.busRead e)) (.ofNat 8 s.sp)).toNat %
          2 ^ s.cfg.bitpos.ptrWidth := putBits_mod _ (by simpa using hb.field)
    _ = (BitVec.ofNat 8 s.sp).toNat % 2 ^ s.cfg.bitpos.ptrWidth := lowUnder_mod _ _ hw
    _ = s.sp := by rw [BitVec.toNat_ofNat, Nat.mod_eq_of_lt hbyte, Nat.mod_eq_of_lt hsp]

/-- Pstatus shows its four flags (`10` R34). -/
theorem readSfr_pstatus {s : State} (hb : SoundBits s.cfg) (e : DataAddr) :
    (readSfr s e .pstatus).getLsbD s.cfg.bitpos.skerr = s.skerr ∧
      (readSfr s e .pstatus).getLsbD s.cfg.bitpos.timeOut = s.timeOut ∧
      (readSfr s e .pstatus).getLsbD s.cfg.bitpos.idleb = s.idleb ∧
      (readSfr s e .pstatus).getLsbD s.cfg.bitpos.pd = s.pd := by
  refine ⟨?_, ?_, ?_, ?_⟩ <;> exact getLsbD_putBits_of_mem _ hb.pstatus (by simp)

theorem readSfr_sbmset1 (s : State) (e : DataAddr) : (readSfr s e .sbmset1).getLsbD 7 = s.sbmset7 :=
  getLsbD_putBit_same _ _ (by decide : 7 < 8)

theorem readSfr_gieReg (s : State) (e : DataAddr) : (readSfr s e .gieReg).getLsbD s.cfg.bitpos.gie = s.gie :=
  getLsbD_putBit_same _ _ s.cfg.bitpos.gie.isLt

/-- BSRCN shows its three bits (`10` R25). -/
theorem readSfr_bsrcn (s : State) (e : DataAddr) : (readSfr s e .bsrcn).toNat % 8 = s.bsrcn.toNat := by
  have hlow := lowUnder_mod (w := 3) (Config.openByte s.tick (.busRead e)) (s.bsrcn.setWidth 8) (by decide)
  have hb := s.bsrcn.isLt
  rw [BitVec.toNat_setWidth] at hlow
  exact hlow.trans (by omega)

theorem readSfr_pclatl (s : State) (e : DataAddr) : (readSfr s e .pclatl).toNat = s.pc.toNat % 256 :=
  BitVec.toNat_setWidth 8 s.pc

theorem readSfr_tosl (s : State) (e : DataAddr) : (readSfr s e .tosl).toNat = (tos s).toNat % 256 :=
  BitVec.toNat_setWidth 8 (tos s)

/-- TOSH shows the upper part of TOS (`10` R32). -/
theorem readSfr_tosh (s : State) (e : DataAddr) : (readSfr s e .tosh).toNat = (tos s).toNat / 256 := by
  have ht := (tos s).isLt
  simp only [readSfr, BitVec.toNat_setWidth, BitVec.extractLsb'_toNat, Nat.shiftRight_eq_div_pow]
  omega

/-- Settles O58: the read goes by the resolved address, and each register by its lemma above. -/
theorem dataReadCases : Obligations.DataReadCases := by
  intro s a e hcfg hstk he
  have hb := soundBits_of_cfgWf hcfg
  rw [memRead_of_resolve he]
  refine ⟨?wreg, fun ht => ⟨fun x hx => (readDirect_ram_iff ht).mpr hx, readDirect_unwritten ht⟩, readDirect_absent,
    fun r hr => ⟨readSfr s e r, readDirect_reg hr, ?_⟩⟩
  case wreg =>
    rintro rfl
    exact readDirect_wreg (targetOf_wregAddr s.cfg)
  refine ⟨?bsrcn, ?fsr0h, ?fsr0l, ?fsr1h, ?fsr1l, ?prodh, ?prodl, ?tblptrh, ?tblptrl, ?tbldh, ?tbldl, ?pclatl, ?tosl,
    ?tosh, ?status, ?stkptr, ?pstatus, ?sbmset1, ?gieReg⟩ <;> rintro rfl
  case bsrcn => exact readSfr_bsrcn s e
  case fsr0h => exact show_bits s.fsr0h _ (keep := 3) (by decide)
  case fsr1h => exact show_bits s.fsr1h _ (keep := 3) (by decide)
  case tblptrh => exact show_bits s.tblptrh _ (keep := 6) (by decide)
  case fsr0l | fsr1l | prodh | prodl | tblptrl | tbldh | tbldl => rfl
  case pclatl => exact readSfr_pclatl s e
  case tosl => exact readSfr_tosl s e
  case tosh => exact readSfr_tosh s e
  case status => exact readSfr_status hb e
  case stkptr => exact ⟨readSfr_stkptr_pointer hb hstk e, readSfr_stkptr_flags hb e⟩
  case pstatus => exact readSfr_pstatus hb e
  case sbmset1 => exact readSfr_sbmset1 s e
  case gieReg => exact readSfr_gieReg s e

end Sys2Proof.Proofs
end

section
/-! SUPPORT. Packing read the other way: operand bits that fit a form's format (`30` R103) are the operands of the
instruction they unpack to. -/

namespace Sys2Proof.Proofs

/-! ## One-bit operands -/

theorem destBit_ofBit (n : Nat) : (Dest.ofBit n).bit = n % 2 := by
  rcases Nat.mod_two_eq_zero_or_one n with h | h <;> simp [Dest.ofBit, Dest.bit, h]

theorem bankBit_ofBit (n : Nat) : (Bank.ofBit n).bit = n % 2 := by
  rcases Nat.mod_two_eq_zero_or_one n with h | h <;> simp [Bank.ofBit, Bank.bit, h]

theorem fsrSelBit_ofBit (n : Nat) : (FsrSel.ofBit n).bit = n % 2 := by
  rcases Nat.mod_two_eq_zero_or_one n with h | h <;> simp [FsrSel.ofBit, FsrSel.bit, h]

theorem toNat_mod_two_beq_one (n : Nat) : (n % 2 == 1).toNat = n % 2 := by
  rcases Nat.mod_two_eq_zero_or_one n with h | h <;> simp [h]

/-! ## One lemma per format -/

theorem repack_field {k v : Nat} (h : v < 2 ^ k) : (BitVec.ofNat k v).toNat = v := Nat.mod_eq_of_lt h

theorem repack_fda {v : Nat} (h : v < 2 ^ 10) :
    (BitVec.ofNat 8 v).toNat + 256 * (Dest.ofBit (v / 256)).bit + 512 * (Bank.ofBit (v / 512)).bit = v := by
  rw [BitVec.toNat_ofNat, destBit_ofBit, bankBit_ofBit]
  omega

theorem repack_fa {v : Nat} (h : v < 2 ^ 9) : (BitVec.ofNat 8 v).toNat + 256 * (Bank.ofBit (v / 256)).bit = v := by
  rw [BitVec.toNat_ofNat, bankBit_ofBit]
  omega

theorem repack_fba {v : Nat} (h : v < 2 ^ 12) :
    (BitVec.ofNat 8 v).toNat + 256 * (BitVec.ofNat 3 (v / 256)).toNat + 2048 * (Bank.ofBit (v / 2048)).bit = v := by
  rw [BitVec.toNat_ofNat, BitVec.toNat_ofNat, bankBit_ofBit]
  omega

theorem repack_k11f {v : Nat} (h : v < 2 ^ 12) :
    (BitVec.ofNat 11 v).toNat + 2048 * (FsrSel.ofBit (v / 2048)).bit = v := by
  rw [BitVec.toNat_ofNat, fsrSelBit_ofBit]
  omega

theorem repack_fsfd {v : Nat} (h : v < 2 ^ 22) :
    (BitVec.ofNat 11 v).toNat + 2048 * (BitVec.ofNat 11 (v / 2048)).toNat = v := by
  rw [BitVec.toNat_ofNat, BitVec.toNat_ofNat]
  omega

theorem repack_n14s {v : Nat} (h : v < 2 ^ 15) :
    (BitVec.ofNat 14 v).toNat + 16384 * (v / 16384 % 2 == 1).toNat = v := by
  rw [BitVec.toNat_ofNat, toNat_mod_two_beq_one]
  omega

theorem repack_s {v : Nat} (h : v < 2 ^ 1) : (v % 2 == 1).toNat = v := by
  rw [toNat_mod_two_beq_one]
  omega

/-- Operand bits that fit the form's format are the operands of what they unpack to: the other half of
`Laws.Packing.Statement`. -/
theorem operands_unpack {o : Op} {v : Nat} (h : v < 2 ^ o.format.width) : (o.unpack v).operands = v := by
  cases o with
  | addc | addf | andf | arlc | arrc | comf | dcf | dcsuz | dcsz | inf | insuz | insz | iorf | mvf | rlf | rlfc | rrf
  | rrfc | subc | subf | swpf | xorf => exact repack_fda h
  | clrf | cpse | cpsg | cpsl | mulf | setf | tfsz => exact repack_fa h
  | bcf | bsf | btgf | btss | btsz => exact repack_fba h
  | addl | andl | iorl | mull | mvl | retl | subl | xorl | lbsr | jc | jn | jnc | jnn | jno | jnz | jo | jz | rcall | rj
  | jmp | mvlp => exact repack_field h
  | ldpr => exact repack_k11f h
  | mvff => exact repack_fsfd h
  | call => exact repack_n14s h
  | ret | reti => exact repack_s h
  | cwdt | idle | nop | pop | slp | tblr | tblrInc => exact (Nat.lt_one_iff.mp h).symm

end Sys2Proof.Proofs
end

section
/-! The round trips of `30` R100 under every sound encoding, and the length of an image (R101): what the table reads it
writes back, an image has its instruction's length, and no image by the table is a prefix of another. -/

namespace Sys2Proof.Proofs

open Sys2Proof.Claims

/-! ## The length of an image -/

theorem opWords_eq_two_iff (o : Op) : o.words = 2 ↔ o ∈ [Op.call, Op.jmp, Op.ldpr, Op.mvff, Op.mvlp] := by
  cases o <;> decide

/-- The table's image of an instruction of one word. -/
theorem rowImage_one {enc : Encoding} {i : Instr} {r : EncRow} (hr : enc.rowFor i.op = some r) (hi : i.words = 1) :
    enc.rowImage i = [.ofNat 16 (r.image i.operands)] := by
  simp [Encoding.rowImage, hr, hi]

/-- The table's image of an instruction of two words. -/
theorem rowImage_two {enc : Encoding} {i : Instr} {r : EncRow} (hr : enc.rowFor i.op = some r) (hi : i.words = 2) :
    enc.rowImage i = [.ofNat 16 (r.image i.operands), .ofNat 16 (r.image i.operands / 65536)] := by
  simp [Encoding.rowImage, hr, hi]

theorem rowImage_length {enc : Encoding} (h : enc.rowsWf = true) (i : Instr) : (enc.rowImage i).length = i.words := by
  obtain ⟨r, hfor, -⟩ := rowFor_spec h i.op
  have hwords : i.words = 1 ∨ i.words = 2 := Op.words_cases i.op
  rcases hwords with h1 | h2
  · rw [rowImage_one hfor h1, h1]; rfl
  · rw [rowImage_two hfor h2, h2]; rfl

/-- An image is as long as `30` R101 says, also where operands are out of range. -/
theorem encode_length {enc : Encoding} (h : enc.wf = true) (i : Instr) : (encode enc i).length = i.words := by
  obtain ⟨hrows, hlisted⟩ := Bool.and_eq_true_iff.mp h
  obtain ⟨hkeys, -, hall⟩ := listedWf_spec hlisted
  by_cases hl : enc.isListed i = true
  · obtain ⟨p, hp, rfl⟩ := List.mem_map.mp (isListed_iff.mp hl)
    obtain ⟨-, hlen, -⟩ := hall p hp
    rw [encode_listed hkeys hp, hlen]
  · rw [encode_of_not_listed (Bool.eq_false_iff.mpr hl), rowImage_length hrows]

/-- Settles O4. -/
theorem encodeLengthIsWords : Obligations.EncodeLengthIsWords := by
  intro enc i h
  exact ⟨encode_length h i, Op.words_cases i.op, opWords_eq_two_iff i.op⟩

/-! ## What decodes was encoded -/

/-- In a sound table each row is the one found for its form. -/
theorem rowFor_eq {enc : Encoding} (h : enc.rowsWf = true) {r : EncRow} (hr : r ∈ enc.rows) :
    enc.rowFor r.op = some r := by
  obtain ⟨q, hfor, hq, hop, -⟩ := rowFor_spec h r.op
  have hnodup : (enc.rows.map (·.op)).Nodup := by
    rw [(rowsWf_iff.mp h).1]
    decide
  rw [hfor, List.inj_on_of_nodup_map hnodup hq hr hop]

/-- The row of a first word is a sound row of the table, and the one found for its form. -/
theorem rowOf_spec {enc : Encoding} (h : enc.rowsWf = true) {w : Word} {r : EncRow} (hr : enc.rowOf w = some r) :
    r.wf = true ∧ enc.rowFor r.op = some r := by
  have hmem := List.mem_of_find?_eq_some hr
  obtain ⟨-, hwf, -⟩ := rowsWf_iff.mp h
  exact ⟨hwf r hmem, rowFor_eq h hmem⟩

/-- The bits a sound row reads are the row's image of the instruction read. -/
theorem image_of_decodeBits {r : EncRow} (h : r.wf = true) {n : Nat} {i : Instr} (hd : decodeBits r n = .ok i) :
    i.op = r.op ∧ r.image i.operands = n := by
  obtain ⟨himage, rfl, -⟩ := decodeBits_ok hd
  obtain ⟨hlen, -⟩ := EncRow.wf_iff.mp h
  have hfit : pickBits r.places n < 2 ^ r.op.format.width := hlen ▸ pickBits_lt r.places n
  exact ⟨Op.unpack_op r.op _, by rw [operands_unpack hfit, himage]⟩

/-- The words the table reads are its image of the instruction read. -/
theorem rowImage_of_readRows {enc : Encoding} (h : enc.rowsWf = true) {ws : List Word} {i : Instr}
    (hd : enc.readRows ws = .ok i) : enc.rowImage i = ws := by
  unfold Encoding.readRows at hd
  split at hd
  · cases hd
  · next w =>
    split at hd
    · cases hd
    · next r hof =>
      split at hd
      · next hone =>
        obtain ⟨hwf, hfor⟩ := rowOf_spec h hof
        obtain ⟨ho, himage⟩ := image_of_decodeBits hwf hd
        rw [rowImage_one (ho ▸ hfor) ((decodeBits_words hd).trans hone), himage, BitVec.ofNat_toNat,
          BitVec.setWidth_eq]
      · cases hd
  · next w w2 rest =>
    split at hd
    · cases hd
    · next r hof =>
      split at hd
      · next htwo =>
        obtain ⟨htwo, rfl⟩ := htwo
        obtain ⟨hwf, hfor⟩ := rowOf_spec h hof
        obtain ⟨ho, himage⟩ := image_of_decodeBits hwf hd
        have hlow : BitVec.ofNat 16 (w.toNat + 65536 * w2.toNat) = w := ofNat_add_mul w w2.toNat
        have hhigh : (w.toNat + 65536 * w2.toNat) / 65536 = w2.toNat := by
          have := w.isLt
          omega
        rw [rowImage_two (ho ▸ hfor) ((decodeBits_words hd).trans htwo), himage, hlow, hhigh, BitVec.ofNat_toNat,
          BitVec.setWidth_eq]
      · cases hd

/-- Words decode by the list of images or, when the instruction has no image of its own, by the table. -/
theorem decodeImage_ok {enc : Encoding} {ws : List Word} {i : Instr} (h : enc.decodeImage ws = .ok i) :
    (i, ws) ∈ enc.listed ∨ enc.isListed i = false ∧ enc.readRows ws = .ok i := by
  unfold Encoding.decodeImage at h
  split at h
  · next p hp =>
    split at h
    · cases h
      have hws : p.2 = ws := by simpa using List.find?_some hp
      exact .inl (hws ▸ List.mem_of_find?_eq_some hp)
    · cases h
  · split at h
    · next j hj =>
      split at h
      · cases h
      · next hnl =>
        cases h
        exact .inr ⟨Bool.eq_false_iff.mpr hnl, hj⟩
    · cases h

/-- Words that decode as a whole are the image of the instruction they decode to. -/
theorem encode_of_decodeImage {enc : Encoding} (h : enc.wf = true) {ws : List Word} {i : Instr}
    (hd : enc.decodeImage ws = .ok i) : encode enc i = ws := by
  obtain ⟨hrows, hlisted⟩ := Bool.and_eq_true_iff.mp h
  rcases decodeImage_ok hd with hmem | ⟨hnl, hread⟩
  · exact encode_listed (listedWf_spec hlisted).1 hmem
  · rw [encode_of_not_listed hnl, rowImage_of_readRows hrows hread]

/-- Decoding from the start of some words splits them into an image and the rest. -/
theorem decode_ok {enc : Encoding} {ws rest : List Word} {i : Instr} (h : decode enc ws = .ok (i, rest)) :
    ∃ image, enc.decodeImage image = .ok i ∧ ws = image ++ rest := by
  unfold decode at h
  split at h
  · cases h
  · next w tail =>
    split at h
    · next j hj =>
      cases h
      exact ⟨[w], hj, rfl⟩
    · split at h
      · cases h
      · next w2 tail2 =>
        cases hd : enc.decodeImage [w, w2] with
        | error e =>
          rw [hd] at h
          cases h
        | ok j =>
          rw [hd] at h
          cases h
          exact ⟨[w, w2], hd, rfl⟩

/-- Settles O3. -/
theorem encodeOfDecode : Obligations.EncodeOfDecode := by
  intro enc ws i h
  refine ⟨encode_of_decodeImage h, fun rest hd => ?_⟩
  obtain ⟨image, himage, rfl⟩ := decode_ok hd
  rw [encode_of_decodeImage h himage]

/-! ## What was encoded decodes from the start of any words -/

/-- Under a sound encoding the images of different instructions differ. -/
theorem encode_injective {enc : Encoding} (h : enc.wf = true) {i j : Instr} (hi : i.wf = true) (hj : j.wf = true)
    (he : encode enc i = encode enc j) : i = j := by
  have hd := decodeImage_encode h hi
  rw [he, decodeImage_encode h hj] at hd
  cases hd
  rfl

/-- The first word of the table's image shows the instruction's form. -/
theorem rowImage_eq_cons {enc : Encoding} (h : enc.rowsWf = true) (i : Instr) :
    ∃ w tail r, enc.rowImage i = w :: tail ∧ enc.rowOf w = some r ∧ r.op = i.op := by
  obtain ⟨r, hfor, hmem, ho, hr⟩ := rowFor_spec h i.op
  have hof := rowOf_eq h hmem (firstMatches_image hr i.operands)
  have hwords : i.words = 1 ∨ i.words = 2 := Op.words_cases i.op
  rcases hwords with h1 | h2
  · exact ⟨_, _, r, rowImage_one hfor h1, hof, ho⟩
  · exact ⟨_, _, r, rowImage_two hfor h2, hof, ho⟩

/-- No image by an opcode table is a prefix of another: the first word gives the form, and with it the length. -/
theorem prefixFree_of_listed_eq_nil {enc : Encoding} (h : enc.wf = true) (hl : enc.listed = []) : PrefixFree enc := by
  intro i j hi hj hprefix
  obtain ⟨hrows, -⟩ := Bool.and_eq_true_iff.mp h
  have htable (k : Instr) : encode enc k = enc.rowImage k :=
    encode_of_not_listed (by simp [Encoding.isListed, hl])
  obtain ⟨wi, ti, ri, hwi, hri, hoi⟩ := rowImage_eq_cons hrows i
  obtain ⟨wj, tj, rj, hwj, hrj, hoj⟩ := rowImage_eq_cons hrows j
  have hword : wi = wj := by
    rw [htable, htable, hwi, hwj] at hprefix
    exact (List.cons_prefix_cons.mp hprefix).1
  have hrow : ri = rj := Option.some.inj (by rw [← hri, hword, hrj])
  have hwords : i.words = j.words := congrArg Op.words (by rw [← hoi, hrow, hoj])
  have hlength : (encode enc i).length = (encode enc j).length := by
    rw [encode_length h, encode_length h, hwords]
  exact encode_injective h hi hj (hprefix.eq_of_length hlength)

/-- Where no image is a prefix of another, an image decodes with any words after it. -/
theorem decode_encode_append {enc : Encoding} (h : enc.wf = true) (hpf : PrefixFree enc) {i : Instr}
    (hi : i.wf = true) (rest : List Word) : decode enc (encode enc i ++ rest) = .ok (i, rest) := by
  have hd := decodeImage_encode h hi
  have hlen : (encode enc i).length = 1 ∨ (encode enc i).length = 2 := encode_length h i ▸ Op.words_cases i.op
  rcases hlen with h1 | h2
  · obtain ⟨w, hw⟩ := List.length_eq_one_iff.mp h1
    rw [hw] at hd ⊢
    simp [decode, hd]
  · obtain ⟨w, w2, hw⟩ := List.length_eq_two.mp h2
    rw [hw] at hd ⊢
    cases hfirst : enc.decodeImage [w] with
    | ok j =>
      -- The first word alone would be the image of some `j`, and a prefix of `i`'s.
      have hj : encode enc j = [w] := encode_of_decodeImage h hfirst
      have hij : j = i := hpf j i (decodeImage_words hfirst).1 hi (by rw [hj, hw]; exact ⟨[w2], rfl⟩)
      rw [hij, hw] at hj
      cases hj
    | error e => simp [decode, hfirst, hd, Except.map]

/-- Settles O2: an opcode table alone is a prefix-free encoding. -/
theorem decodeOfEncode : Obligations.DecodeOfEncode := by
  intro enc i h hi
  refine ⟨decodeImage_encode h hi, fun hpf => decode_encode_append h ?_ hi⟩
  exact hpf.elim (prefixFree_of_listed_eq_nil h) id

end Sys2Proof.Proofs
end

section
/-! The logic, rotate, swap and store instructions of `spec/40_byte_arith_logic.md`: their results bit by bit, and the
rules of the file instructions that write no flag and of the pure stores. -/

namespace Sys2Proof.Proofs

open Sys2Proof.Machine Sys2Proof.Claims

/-! ## Results with N and Z (`10` R49) -/

theorem setNZ_setsNZ (fl : Flags) (r : Byte) : SetsNZ fl r (setNZ fl r) where
  negative := msb_iff r
  zero := beq_zero_iff r
  carry := rfl
  digit := rfl
  overflow := rfl

theorem resultCNZ_setsCNZ (fl : Flags) (c : Bool) (r : Byte) : SetsCNZ fl c r (resultCNZ fl c r).flags where
  negative := msb_iff r
  zero := beq_zero_iff r
  carry := rfl
  digit := rfl
  overflow := rfl

/-! ## Bits of the results -/

theorem and_isBitwise (x y : Byte) : IsBitwise (· && ·) x y (x &&& y) := fun _ _ => BitVec.getLsbD_and

theorem or_isBitwise (x y : Byte) : IsBitwise (· || ·) x y (x ||| y) := fun _ _ => BitVec.getLsbD_or

theorem xor_isBitwise (x y : Byte) : IsBitwise (fun b c => b != c) x y (x ^^^ y) := fun _ _ => BitVec.getLsbD_xor

theorem not_isBitwise (x y : Byte) : IsBitwise (fun _ b => !b) x y (~~~y) := fun k hk => by simp [hk]

theorem getLsbD_shiftInLow (x : Byte) (b : Bool) (k : Nat) : (shiftInLow x b).getLsbD k =
    if k < 1 then (BitVec.ofBool b).getLsbD k else (x.setWidth 7).getLsbD (k - 1) := BitVec.getLsbD_append

theorem getLsbD_shiftInHigh (x : Byte) (b : Bool) (k : Nat) : (shiftInHigh b x).getLsbD k =
    if k < 7 then (x.extractLsb' 1 7).getLsbD k else (BitVec.ofBool b).getLsbD (k - 7) := BitVec.getLsbD_append

/-- Rotated left, the byte has `b` at the bottom and its own bits one place up. -/
theorem shiftInLow_isShiftUp (x : Byte) (b : Bool) : IsShiftUp x b (shiftInLow x b) := by
  refine ⟨?_, fun k hk => ?_⟩
  · rw [getLsbD_shiftInLow]
    simp
  · rw [getLsbD_shiftInLow]
    simp [hk]

/-- Rotated right, the byte has `b` at the top and its own bits one place down. -/
theorem shiftInHigh_isShiftDown (x : Byte) (b : Bool) : IsShiftDown x b (shiftInHigh b x) := by
  refine ⟨?_, fun k hk => ?_⟩
  · rw [getLsbD_shiftInHigh]
    simp
  · rw [getLsbD_shiftInHigh]
    simp [hk, Nat.add_comm]

theorem toNat_swapNibbles (x : Byte) : (swapNibbles x).toNat = x.toNat % 16 * 16 + x.toNat / 16 := by
  have hx := x.isLt
  rw [swapNibbles, BitVec.toNat_append, ← Nat.shiftLeft_add_eq_or_of_lt (BitVec.isLt _)]
  simp only [BitVec.toNat_setWidth, BitVec.extractLsb'_toNat, Nat.shiftRight_eq_div_pow, Nat.shiftLeft_eq]
  omega

/-! ## The flag-writing instructions -/

/-- Settles O28: each of the four is `fileFlagged` with a bitwise result and `setNZ`. -/
theorem fileLogic : Obligations.FileLogic :=
  ⟨flaggedRule_of_fileFlagged (fun _ _ _ _ => rfl) fun s x => ⟨and_isBitwise s.w x, setNZ_setsNZ s.status _⟩,
    flaggedRule_of_fileFlagged (fun _ _ _ _ => rfl) fun s x => ⟨not_isBitwise s.w x, setNZ_setsNZ s.status _⟩,
    flaggedRule_of_fileFlagged (fun _ _ _ _ => rfl) fun s x => ⟨or_isBitwise s.w x, setNZ_setsNZ s.status _⟩,
    flaggedRule_of_fileFlagged (fun _ _ _ _ => rfl) fun s x => ⟨xor_isBitwise s.w x, setNZ_setsNZ s.status _⟩⟩

/-- ARRC keeps bit 7 and moves bit 0 to C (`40` R204). -/
theorem arrcResult_spec (fl : Flags) (x : Byte) :
    IsShiftDown x (x.getLsbD 7) (arrcResult fl x).r ∧
      SetsCNZ fl (x.getLsbD 0) (arrcResult fl x).r (arrcResult fl x).flags :=
  ⟨msb_eq_bit7 x ▸ shiftInHigh_isShiftDown x x.msb, resultCNZ_setsCNZ fl _ _⟩

/-- RLF moves bit 7 to bit 0 (`40` R210). -/
theorem rlfResult_spec (fl : Flags) (x : Byte) :
    IsShiftUp x (x.getLsbD 7) (rlfResult fl x).r ∧ SetsNZ fl (rlfResult fl x).r (rlfResult fl x).flags :=
  ⟨msb_eq_bit7 x ▸ shiftInLow_isShiftUp x x.msb, setNZ_setsNZ fl _⟩

/-- RLFC moves C to bit 0 and bit 7 to C (`40` R211). -/
theorem rlfcResult_spec (fl : Flags) (x : Byte) :
    IsShiftUp x fl.c (rlfcResult fl x).r ∧
      SetsCNZ fl (x.getLsbD 7) (rlfcResult fl x).r (rlfcResult fl x).flags :=
  ⟨shiftInLow_isShiftUp x fl.c, msb_eq_bit7 x ▸ resultCNZ_setsCNZ fl x.msb _⟩

/-- RRF moves bit 0 to bit 7 (`40` R212). -/
theorem rrfResult_spec (fl : Flags) (x : Byte) :
    IsShiftDown x (x.getLsbD 0) (rrfResult fl x).r ∧ SetsNZ fl (rrfResult fl x).r (rrfResult fl x).flags :=
  ⟨shiftInHigh_isShiftDown x _, setNZ_setsNZ fl _⟩

/-- RRFC moves C to bit 7 and bit 0 to C (`40` R213). -/
theorem rrfcResult_spec (fl : Flags) (x : Byte) :
    IsShiftDown x fl.c (rrfcResult fl x).r ∧
      SetsCNZ fl (x.getLsbD 0) (rrfcResult fl x).r (rrfcResult fl x).flags :=
  ⟨shiftInHigh_isShiftDown x fl.c, resultCNZ_setsCNZ fl _ _⟩

/-- Settles O30: each of the five is `fileFlagged` with its rotate. -/
theorem fileRotates : Obligations.FileRotates :=
  ⟨flaggedRule_of_fileFlagged (fun _ _ _ _ => rfl) fun s x => arrcResult_spec s.status x,
    flaggedRule_of_fileFlagged (fun _ _ _ _ => rfl) fun s x => rlfResult_spec s.status x,
    flaggedRule_of_fileFlagged (fun _ _ _ _ => rfl) fun s x => rlfcResult_spec s.status x,
    flaggedRule_of_fileFlagged (fun _ _ _ _ => rfl) fun s x => rrfResult_spec s.status x,
    flaggedRule_of_fileFlagged (fun _ _ _ _ => rfl) fun s x => rrfcResult_spec s.status x⟩

/-! ## The file instructions that write no flag -/

/-- With d = 1 and a readable operand, such an instruction is a write at the resolved address. -/
theorem fileUnflagged_toFile {f : Byte} {a : Bank} {g : Byte → Byte} {s : State} {x : Byte} {e : DataAddr}
    (hx : memRead (advance s 1) (effAddr f a s) = .ok x) (he : resolve s (effAddr f a s) = .ok e) :
    fileUnflagged f .f a g s = writeDirect .modify (advance s 1) e (g x) := by
  rw [fileUnflagged, withByte_ok hx]
  exact memWrite_of_resolve (s := advance s 1) he

/-- A read-modify-write that writes no flag lands on STATUS too (`92` D12). -/
theorem writeDirect_modify_lands {s : State} {e : DataAddr} {v : Byte}
    (h : takesByte (targetOf s.cfg e) = true ∨ targetOf s.cfg e = .reg .pclatl ∨ targetOf s.cfg e = .reg .status) :
    ∃ t, writeDirect .modify s e v = .next t ∧ Landed s t e v := by
  obtain ht | ht | ht := h
  · exact writeDirect_lands_takesByte ht
  · exact writeDirect_lands_pclatl (by decide) ht
  · exact writeDirect_lands_status (by decide) ht

/-- An instruction that is `fileUnflagged` with results of which `R` holds keeps the whole rule. -/
theorem unflaggedRule_of_fileUnflagged {mk : Byte → Dest → Bank → Instr} {g : Byte → Byte} {R : Byte → Byte → Prop}
    (hmk : ∀ f d a s, exec (mk f d a) s = fileUnflagged f d a g s) (hR : ∀ x, R x (g x)) : UnflaggedRule mk R where
  toW s f a x hx := by
    refine ⟨_, hR x, ?_⟩
    rw [hmk, fileUnflagged, withByte_ok hx]
    rfl
  toF s f a x e hx he ht := by
    obtain ⟨t, hw, hl⟩ := writeDirect_modify_lands (s := advance s 1) (v := g x) ht
    exact ⟨_, t, hR x, by rw [hmk, fileUnflagged_toFile hx he, hw], hl⟩
  onSystem s f a e q he hq ht := by
    rw [hmk, fileUnflagged_toFile (memRead_reg (s := advance s 1) he ht) he]
    exact writeDirect_systemReg (.inr (.inl rfl)) hq ht
  unreadable s f d a q hx := by
    rw [hmk, fileUnflagged, withByte_error hx]

/-- Settles O31. -/
theorem swapNibbles : Obligations.SwapNibbles :=
  unflaggedRule_of_fileUnflagged (fun _ _ _ _ => rfl) toNat_swapNibbles

/-! ## The pure stores -/

/-- A pure store is a write at the resolved address, whatever the cell holds. -/
theorem fileStore_of_resolve {f : Byte} {a : Bank} {v : Byte} {s : State} {e : DataAddr}
    (he : resolve s (effAddr f a s) = .ok e) : fileStore f a v s = writeDirect .pure (advance s 1) e v :=
  memWrite_of_resolve (s := advance s 1) he

/-- An instruction that is `fileStore` of a constant keeps the whole rule of a pure write. -/
theorem storeRule_of_fileStore {mk : Byte → Bank → Instr} {v : Byte}
    (hmk : ∀ f a s, exec (mk f a) s = fileStore f a v s) : StoreRule mk fun _ => v where
  lands s f a e he ht := by
    rw [hmk, fileStore_of_resolve he]
    obtain ht | ht := ht
    · exact writeDirect_lands_takesByte ht
    · exact writeDirect_lands_status (by decide) ht
  onPclatl s f a e he ht := by
    rw [hmk, fileStore_of_resolve he]
    exact writeDirect_pure_pclatl ht
  onSystem s f a e q he hq ht := by
    rw [hmk, fileStore_of_resolve he]
    exact writeDirect_systemReg (.inl rfl) hq ht
  onAbsent s f a e he ht := by
    rw [hmk, fileStore_of_resolve he]
    exact writeDirect_absent ht
  unresolved s f a q hq := by
    rw [hmk]
    exact memWrite_unresolved (s := advance s 1) hq

/-- Settles O32: both are `fileStore` of their byte. -/
theorem fileStores : Obligations.FileStores :=
  ⟨storeRule_of_fileStore fun _ _ _ => rfl, storeRule_of_fileStore fun _ _ _ => rfl⟩

end Sys2Proof.Proofs
end

section
/-! The literal, move and multiply instructions of `spec/41_literal_move_multiply.md`: W's logic with a literal, the plain
loads, the move between W and a file operand, and the product in PRODH:PRODL. -/

namespace Sys2Proof.Proofs

open Sys2Proof.Machine Sys2Proof.Claims

/-! ## Literals on W and BSRCN -/

/-- Settles O40: each of the three is `literalFlagged` with a bitwise result and `setNZ`. -/
theorem literalLogic : Obligations.LiteralLogic := by
  intro s k
  exact ⟨⟨_, _, and_isBitwise s.w k, setNZ_setsNZ s.status _, rfl⟩,
    ⟨_, _, or_isBitwise s.w k, setNZ_setsNZ s.status _, rfl⟩,
    ⟨_, _, xor_isBitwise s.w k, setNZ_setsNZ s.status _, rfl⟩⟩

/-- Settles O41: both loads are one write of one register. -/
theorem literalLoads : Obligations.LiteralLoads := fun _ _ _ => ⟨rfl, rfl⟩

/-! ## Moves (`41` R238) -/

/-- A pure write lands on STATUS too (`92` D12). -/
theorem writeDirect_pure_lands {s : State} {e : DataAddr} {v : Byte}
    (h : takesByte (targetOf s.cfg e) = true ∨ targetOf s.cfg e = .reg .status) :
    ∃ t, writeDirect .pure s e v = .next t ∧ Landed s t e v :=
  h.elim writeDirect_lands_takesByte (writeDirect_lands_status (by decide))

/-- MVF with d = 1 is a pure store of W at the resolved address, whatever stands there. -/
theorem mvf_toFile {s : State} {f : Byte} {a : Bank} {e : DataAddr} (he : resolve s (effAddr f a s) = .ok e) :
    exec (.mvf f .f a) s = writeDirect .pure (advance s 1) e s.w :=
  fileStore_of_resolve he

/-- MVF with d = 1 keeps the rule of a pure write, case by case over what stands at the resolved address. -/
theorem mvf_storeRule : StoreRule (fun f a => .mvf f .f a) (fun s => s.w) where
  lands s f a e he ht := by
    rw [mvf_toFile he]
    exact writeDirect_pure_lands ht
  onPclatl s f a e he ht := (mvf_toFile he).trans (writeDirect_pure_pclatl ht)
  onSystem s f a e q he hq ht := (mvf_toFile he).trans (writeDirect_systemReg (.inl rfl) hq ht)
  onAbsent s f a e he ht := (mvf_toFile he).trans (writeDirect_absent ht)
  unresolved s f a q hq := memWrite_unresolved (s := advance s 1) hq

/-- Settles O33: with d = 0 the read decides, with d = 1 the write alone. -/
theorem moveFile : Obligations.MoveFile :=
  ⟨fun _ _ _ => ⟨fun _ hx => withByte_ok hx, fun _ hq => withByte_error hq⟩, mvf_storeRule⟩

/-! ## Products (`41` R236, R237) -/

/-- Sixteen bits hold every product of two bytes. -/
theorem toNat_product (x y : Byte) : (product x y).toNat = x.toNat * y.toNat := by
  have hxy : x.toNat * y.toNat < 2 ^ 8 * 2 ^ 8 := Nat.mul_lt_mul'' x.isLt y.isLt
  exact Nat.mod_eq_of_lt hxy

/-- A 16-bit value from its two bytes. -/
theorem toNat_bytes (p : BitVec 16) : (p.extractLsb' 8 8).toNat * 256 + (p.setWidth 8).toNat = p.toNat := by
  have hp := p.isLt
  simp only [BitVec.extractLsb'_toNat, BitVec.toNat_setWidth, Nat.shiftRight_eq_div_pow]
  omega

/-- PRODH:PRODL hold the product of W and the operand, and no other register changes. -/
theorem setProduct_spec (x : Byte) (s : State) : ∃ h l : Byte,
    h.toNat * 256 + l.toNat = s.w.toNat * x.toNat ∧ setProduct x s = { s with prodh := h, prodl := l } :=
  ⟨_, _, (toNat_bytes _).trans (toNat_product s.w x), rfl⟩

/-- Settles O43: both multiplications are `setProduct`, MULF's after the read. -/
theorem multiply : Obligations.Multiply := by
  refine ⟨fun s k => ?_, fun s f a x hx => ?_, fun s f a q hq => withByte_error hq⟩
  · obtain ⟨h, l, hp, hs⟩ := setProduct_spec k (advance s 1)
    exact ⟨h, l, hp, congrArg Host.Outcome.next hs⟩
  · obtain ⟨h, l, hp, hs⟩ := setProduct_spec x (advance s 1)
    exact ⟨h, l, hp, (withByte_ok hx).trans (congrArg Host.Outcome.next hs)⟩

end Sys2Proof.Proofs
end

section
/-! The skips of `spec/42_compare_skip.md` and `spec/44_bit_ops.md`: where a skip goes (`10` R50), the tests that write
nothing but the PC, and the counts that store their result either way. -/

namespace Sys2Proof.Proofs

open Sys2Proof.Machine Sys2Proof.Claims

/-! ## Where a skip goes (`10` R50) -/

/-- When a word follows, the PC is there. -/
theorem toNat_advance_one {s : State} (h : s.pc.toNat + 1 < progSpace) : (advance s 1).pc.toNat = s.pc.toNat + 1 := by
  rw [advance_pc, BitVec.toNat_add, BitVec.toNat_ofNat]
  exact Nat.mod_eq_of_lt h

/-- The instruction after the one at the PC decides the target of a skip. -/
theorem skipTarget_of_canSkip {s : State} {j : Instr} (h : CanSkip s j) :
    skipTarget (advance s 1) = some (.ofNat 14 (s.pc.toNat + 1 + j.words)) := by
  obtain ⟨hj, hsize, hspace⟩ := h
  have hnext : s.pc.toNat + 1 < progSpace := by omega
  have hfetch : fetchAt (advance s 1) (s.pc.toNat + 1) = .ok j := hj
  have htarget : (advance s 1).pc + .ofNat 14 j.words = .ofNat 14 (s.pc.toNat + 1 + j.words) := by
    rw [BitVec.ofNat_add, ← toNat_advance_one hnext, BitVec.ofNat_toNat, BitVec.setWidth_eq]
  have hpast : (advance s 1).pcPast = false := decide_eq_false (Nat.not_le.mpr hnext)
  rw [← htarget, skipTarget, hpast, toNat_advance_one hnext, hfetch]
  exact if_pos (And.intro hspace hsize)

/-- A skip with a target passes over an instruction that follows. -/
theorem canSkip_of_skipTarget {s : State} {p : ProgAddr} (h : skipTarget (advance s 1) = some p) :
    ∃ j, CanSkip s j := by
  unfold skipTarget at h
  split at h
  · cases h
  · next hpast =>
    have hnext : s.pc.toNat + 1 < progSpace := Nat.not_le.mp fun hle => hpast (decide_eq_true hle)
    rw [toNat_advance_one hnext] at h
    split at h
    · next j hj =>
      split at h
      · next hin => exact ⟨j, hj, hin.2, hin.1⟩
      · cases h
    · cases h

theorem skipTarget_eq_none {s : State} (h : ∀ j, ¬CanSkip s j) : skipTarget (advance s 1) = none :=
  Option.eq_none_iff_forall_ne_some.mpr fun _ hp =>
    let ⟨j, hj⟩ := canSkip_of_skipTarget hp
    h j hj

/-! ## The tests -/

/-- An instruction that is `testSkip` on a condition keeps the whole rule of `42` R259. -/
theorem testSkipRule_of_testSkip {mk : Byte → Bank → Instr} {c : State → Byte → Bool} {cond : State → Byte → Prop}
    (hmk : ∀ f a s, exec (mk f a) s = testSkip f a (c s) s) (hc : ∀ s x, c s x = true ↔ cond s x) :
    TestSkipRule mk cond where
  stays s f a x hx hn := by
    rw [hmk, testSkip, withByte_ok hx, skipIf, if_neg (mt (hc s x).mp hn)]
  skips s f a x j hx hy hj := by
    rw [hmk, testSkip, withByte_ok hx, skipIf, if_pos ((hc s x).mpr hy), skipTarget_of_canSkip hj]
    rfl
  outside s f a x hx hy hj := by
    rw [hmk, testSkip, withByte_ok hx, skipIf, if_pos ((hc s x).mpr hy), skipTarget_eq_none hj]
  unreadable s f a q hq := by
    rw [hmk, testSkip, withByte_error hq]

/-- Settles O37: each of the six is `testSkip` on its condition. -/
theorem testSkips : Obligations.TestSkips :=
  ⟨testSkipRule_of_testSkip (fun _ _ _ => rfl) fun _ _ => beq_iff_eq,
    testSkipRule_of_testSkip (fun _ _ _ => rfl) fun _ _ => decide_eq_true_iff,
    testSkipRule_of_testSkip (fun _ _ _ => rfl) fun _ _ => decide_eq_true_iff,
    testSkipRule_of_testSkip (fun _ _ _ => rfl) fun _ _ => beq_iff_eq,
    fun b => testSkipRule_of_testSkip (c := fun _ x => x.getLsbD b.toNat) (fun _ _ _ => rfl) fun _ _ => Iff.rfl,
    fun b => testSkipRule_of_testSkip (c := fun _ x => !x.getLsbD b.toNat) (fun _ _ _ => rfl) fun _ _ =>
      iff_of_eq (Bool.not_eq_true' _)⟩

/-! ## The counts: what one does once its result is stored -/

section AfterRead

variable {f : Byte} {d : Dest} {a : Bank} {g : Byte → Byte} {c : Byte → Bool} {s u : State} {x : Byte}

theorem countSkip_stays (hx : memRead (advance s 1) (effAddr f a s) = .ok x)
    (hd : dest .modify d (effAddr f a s) (g x) (advance s 1) = .next u) (hc : ¬c (g x) = true) :
    countSkip f d a g c s = .next u := by
  simp [countSkip, hx, hd, hc]

/-- The skip goes past the next instruction, unless the result went to PCLATL. -/
theorem countSkip_skips {j : Instr} (hx : memRead (advance s 1) (effAddr f a s) = .ok x)
    (hd : dest .modify d (effAddr f a s) (g x) (advance s 1) = .next u) (hc : c (g x) = true) (hj : CanSkip s j)
    (hp : ¬(d = .f ∧ reachesPclatl (advance s 1) (effAddr f a s) = true)) :
    countSkip f d a g c s = .next (skipPast s u j) := by
  simp only [countSkip, withByte_ok hx, hd, if_pos hc, skipTarget_of_canSkip hj, if_neg hp]
  rfl

/-- After a store to PCLATL a skip leaves the PC open. -/
theorem countSkip_opens_pc {j : Instr} (hx : memRead (advance s 1) (effAddr f a s) = .ok x)
    (hd : dest .modify .f (effAddr f a s) (g x) (advance s 1) = .next u) (hc : c (g x) = true) (hj : CanSkip s j)
    (hp : reachesPclatl (advance s 1) (effAddr f a s) = true) :
    ∃ p, countSkip f .f a g c s = .next (setPc u p) := by
  refine ⟨Config.openAddr s.tick .pclatlSkip, ?_⟩
  simp only [countSkip, withByte_ok hx, hd, if_pos hc, skipTarget_of_canSkip hj, hp, and_self, if_true]

theorem countSkip_outside (hx : memRead (advance s 1) (effAddr f a s) = .ok x)
    (hd : dest .modify d (effAddr f a s) (g x) (advance s 1) = .next u) (hc : c (g x) = true)
    (hj : ∀ j, ¬CanSkip s j) : countSkip f d a g c s = .refused .skipOutsideProgram := by
  simp only [countSkip, withByte_ok hx, hd, if_pos hc, skipTarget_eq_none hj]

/-- A result that cannot be stored stops the instruction, skip or not. -/
theorem countSkip_refused {r : Refusal} (hx : memRead (advance s 1) (effAddr f a s) = .ok x)
    (hd : dest .modify d (effAddr f a s) (g x) (advance s 1) = .refused r) :
    countSkip f d a g c s = .refused r := by
  simp only [countSkip, withByte_ok hx, hd]

end AfterRead

/-! ## The counts: the store -/

theorem reachesPclatl_of_resolve {s : State} {a e : DataAddr} (he : resolve s a = .ok e) :
    reachesPclatl s a = true ↔ targetOf s.cfg e = .reg .pclatl := by
  simp [reachesPclatl, he]

/-- The destination operand takes the result of a read-modify-write that writes no flag. -/
theorem dest_modify_lands {s : State} {ea e : DataAddr} {v : Byte} (he : resolve s ea = .ok e)
    (ht : takesByte (targetOf s.cfg e) = true ∨ targetOf s.cfg e = .reg .pclatl ∨ targetOf s.cfg e = .reg .status) :
    ∃ u, dest .modify .f ea v s = .next u ∧ Landed s u e v := by
  obtain ⟨u, hu, hl⟩ := writeDirect_modify_lands (v := v) ht
  exact ⟨u, (memWrite_of_resolve he).trans hu, hl⟩

/-- A store to PCLATL writes the PC alone, so setting the PC undoes it. -/
theorem setPc_of_landed_pclatl {s u : State} {e : DataAddr} {v : Byte} (hl : Landed s u e v)
    (ht : targetOf s.cfg e = .reg .pclatl) (p : ProgAddr) : setPc u p = setPc s p := by
  simp only [Landed, ht] at hl
  obtain ⟨_, -, rfl⟩ := hl
  rfl

/-- An instruction that is `countSkip` of a result `inc` above the byte keeps the whole rule of `42` R263 to R266. -/
theorem countSkipRule_of_countSkip {mk : Byte → Dest → Bank → Instr} {g : Byte → Byte} {c : Byte → Bool} {inc : Nat}
    {cond : Byte → Prop} (hmk : ∀ f d a s, exec (mk f d a) s = countSkip f d a g c s)
    (hg : ∀ x, (g x).toNat = (x.toNat + inc) % 256) (hc : ∀ r, c r = true ↔ cond r) : CountSkipRule mk inc cond where
  toW s f a x r hx hr := by
    obtain rfl : g x = r := BitVec.eq_of_toNat_eq ((hg x).trans hr.symm)
    rw [hmk]
    exact ⟨fun hn => countSkip_stays hx rfl (mt (hc _).mp hn),
      fun j hy hj => countSkip_skips hx rfl ((hc _).mpr hy) hj nofun⟩
  toF s f a x r e hx hr he ht := by
    obtain rfl : g x = r := BitVec.eq_of_toNat_eq ((hg x).trans hr.symm)
    have hpcl := reachesPclatl_of_resolve (s := advance s 1) he
    obtain ⟨u, hu, hl⟩ := dest_modify_lands (s := advance s 1) (v := g x) he ht
    rw [hmk]
    refine ⟨u, hl, fun hn => countSkip_stays hx hu (mt (hc _).mp hn), fun j hy hj => ⟨fun hne => ?_, fun hpc => ?_⟩⟩
    · exact countSkip_skips hx hu ((hc _).mpr hy) hj fun ⟨_, hreach⟩ => hne (hpcl.mp hreach)
    · obtain ⟨p, hp⟩ := countSkip_opens_pc hx hu ((hc _).mpr hy) hj (hpcl.mpr hpc)
      exact ⟨p, by rw [hp, setPc_of_landed_pclatl hl hpc]; rfl⟩
  outside s f d a x r e hx hr he ht hy hj := by
    obtain rfl : g x = r := BitVec.eq_of_toNat_eq ((hg x).trans hr.symm)
    rw [hmk]
    cases d with
    | w => exact countSkip_outside hx rfl ((hc _).mpr hy) hj
    | f =>
      obtain ⟨u, hu, -⟩ := dest_modify_lands (s := advance s 1) (v := g x) he (ht.resolve_left nofun)
      exact countSkip_outside hx hu ((hc _).mpr hy) hj
  onSystem s f a e q he hq ht := by
    rw [hmk]
    exact countSkip_refused (memRead_reg (s := advance s 1) he ht)
      ((memWrite_of_resolve (s := advance s 1) he).trans (writeDirect_systemReg (.inr (.inl rfl)) hq ht))
  unreadable s f d a q hq := by
    rw [hmk, countSkip, withByte_error hq]

/-- One less, modulo 256, is 255 more. -/
theorem toNat_sub_one (x : Byte) : (x - 1).toNat = (x.toNat + 255) % 256 := by
  bv_omega

/-- Settles O38: each of the four is `countSkip` with its result and its condition. -/
theorem countSkips : Obligations.CountSkips :=
  ⟨countSkipRule_of_countSkip (fun _ _ _ _ => rfl) toNat_sub_one fun _ => bne_iff_ne,
    countSkipRule_of_countSkip (fun _ _ _ _ => rfl) toNat_sub_one fun _ => beq_iff_eq,
    countSkipRule_of_countSkip (fun _ _ _ _ => rfl) (fun x => BitVec.toNat_add x 1) fun _ => bne_iff_ne,
    countSkipRule_of_countSkip (fun _ _ _ _ => rfl) (fun x => BitVec.toNat_add x 1) fun _ => beq_iff_eq⟩

end Sys2Proof.Proofs
end

section
/-! The control instructions of `spec/43_control.md`: calls on a stack that is not full, returns on one that is not
empty, jumps, POP, and the instructions that write one register of the core. -/

namespace Sys2Proof.Proofs

open Sys2Proof.Machine Sys2Proof.Claims

/-! ## Where control goes next -/

/-- When the address after `n` words exists, the PC is there. -/
theorem toNat_advance {s : State} {n : Nat} (h : s.pc.toNat + n < progSpace) :
    (advance s n).pc.toNat = s.pc.toNat + n := by
  rw [advance_pc, BitVec.toNat_add, BitVec.toNat_ofNat, Nat.add_mod_mod]
  exact Nat.mod_eq_of_lt h

/-- A call of `n` words returns to the address after it; past the end nothing is claimed. -/
theorem returnAddr_isReturnAddr (s : State) (n : Nat) : IsReturnAddr s n (returnAddr (advance s n)) := by
  intro h
  have hpast : (advance s n).pcPast = false := decide_eq_false (Nat.not_le.mpr h)
  rw [returnAddr, if_neg (Bool.eq_false_iff.mp hpast)]
  exact toNat_advance h

/-- The sign-extended displacement, added in 14 bits, is the exact sum modulo 2^14 (`30` R106): both are `ofInt`. -/
theorem relTarget_isRelTarget (s : State) {k : Nat} (n : BitVec k) : IsRelTarget s n (relTarget (advance s 1) n) := by
  have hsum : relTarget (advance s 1) n = .ofInt 14 ((s.pc.toNat : Int) + 1 + n.toInt) := by
    simp [relTarget, BitVec.signExtend, BitVec.ofInt_add]
  rw [IsRelTarget, hsum, BitVec.toNat_ofInt, Int.toNat_of_nonneg (Int.emod_nonneg _ (by decide))]
  rfl

/-! ## The stack -/

theorem pushThen_notFull {s : State} (h : s.sp < s.cfg.stackDepth) (v : ProgAddr) (k : State → State) :
    pushThen s v k = k (pushed s v) := if_pos h

theorem popThen_notEmpty {s : State} (h : 1 ≤ s.sp) (k : State → State) :
    popThen s k = .next (k (setPc { s with sp := s.sp - 1 } (tos s))) := if_neg (Nat.one_le_iff_ne_zero.mp h)

theorem tos_empty {s : State} (h : s.sp = 0) : tos s = 0 := if_pos h

theorem tos_of_entry {s : State} {v : ProgAddr} (h : 1 ≤ s.sp) (hv : s.stk[s.sp - 1]? = some v) : tos s = v := by
  rw [tos, if_neg (Nat.one_le_iff_ne_zero.mp h), List.getD_eq_getElem?_getD, hv, Option.getD_some]

/-- A pushed entry is the one the pointer then shows, in a stack that has its shape. -/
theorem pushed_top {s : State} (hs : stackWf s) (h : s.sp < s.cfg.stackDepth) (v : ProgAddr) :
    (pushed s v).stk[(pushed s v).sp - 1]? = some v :=
  List.getElem?_set_self (hs.1 ▸ h)

/-! ## Calls -/

/-- CALL on a stack that is not full, with the model's own return address. -/
theorem exec_call_notFull {s : State} (h : s.sp < s.cfg.stackDepth) (n : ProgAddr) (sh : Bool) :
    exec (.call n sh) s =
      .next { pushed (shadowed sh s) (returnAddr (advance s 2)) with pc := n, pcPast := false } := by
  cases sh with
  | false => exact congrArg Host.Outcome.next (pushThen_notFull (s := advance s 2) h _ _)
  | true => exact congrArg Host.Outcome.next (pushThen_notFull (s := saveShadows (advance s 2)) h _ _)

theorem exec_rcall_notFull {s : State} (h : s.sp < s.cfg.stackDepth) (n : BitVec 11) :
    exec (.rcall n) s =
      .next { pushed s (returnAddr (advance s 1)) with pc := relTarget (advance s 1) n, pcPast := false } :=
  congrArg Host.Outcome.next (pushThen_notFull (s := advance s 1) h _ _)

/-- Settles O44: both are `pushThen` after `advance`, which has room. -/
theorem callsPush : Obligations.CallsPush := fun s h =>
  ⟨fun n sh => ⟨_, returnAddr_isReturnAddr s 2, exec_call_notFull h n sh⟩,
    fun n => ⟨_, _, returnAddr_isReturnAddr s 1, relTarget_isRelTarget s n, exec_rcall_notFull h n⟩⟩

/-! ## Returns -/

section TopEntry

variable {s : State} {v : ProgAddr} (h : 1 ≤ s.sp) (hv : s.stk[s.sp - 1]? = some v)
include h hv

/-- With top entry `v`, a return goes on with `v` in the PC and the pointer one lower. -/
theorem popThen_of_entry {k : State → State} {t : State}
    (hk : k { s with pc := v, pcPast := false, sp := s.sp - 1 } = t) : popThen s k = .next t := by
  rw [popThen_notEmpty h, tos_of_entry h hv, ← hk]
  rfl

theorem exec_ret_of_entry (sh : Bool) :
    exec (.ret sh) s = .next { restored sh s with pc := v, pcPast := false, sp := s.sp - 1 } := by
  rw [exec, execRet]
  exact popThen_of_entry h hv (by cases sh <;> rfl)

theorem exec_reti_of_entry (sh : Bool) :
    exec (.reti sh) s = .next { restored sh s with pc := v, pcPast := false, sp := s.sp - 1, gie := true } := by
  rw [exec, execReti]
  exact popThen_of_entry h hv (by cases sh <;> rfl)

theorem exec_retl_of_entry (k : Byte) :
    exec (.retl k) s = .next { s with pc := v, pcPast := false, sp := s.sp - 1, w := k } := by
  rw [exec, execRetl]
  exact popThen_of_entry h hv rfl

end TopEntry

/-- Settles O46: all three are `popThen`, which finds an entry. -/
theorem returnsPop : Obligations.ReturnsPop := fun _ _ h hv =>
  ⟨exec_ret_of_entry h hv, exec_reti_of_entry h hv, exec_retl_of_entry h hv⟩

/-! ## A call and its return -/

/-- Settles O55: the entry CALL pushed is the one RET finds, and the shadows hold what CALL left in them. -/
theorem callThenReturn : Obligations.CallThenReturn := by
  intro s u n sh hs hfree hnext
  refine ⟨_, exec_call_notFull hfree n sh, fun ⟨hstk, hsp, hw, hst, hb⟩ => ?_⟩
  have hpos : 1 ≤ u.sp := hsp ▸ Nat.succ_pos s.sp
  have htop : u.stk[u.sp - 1]? = some (returnAddr (advance s 2)) := by
    rw [hstk, hsp]
    exact pushed_top (s := shadowed sh s) hs hfree _
  have hback : u.sp - 1 = s.sp := by rw [hsp]; rfl
  refine ⟨_, exec_ret_of_entry hpos htop sh, returnAddr_isReturnAddr s 2 hnext, rfl, hback, ?_, ?_⟩
  · rintro rfl
    exact ⟨hw, hst, hb⟩
  · rintro rfl
    exact ⟨rfl, rfl, rfl⟩

/-! ## Jumps -/

/-- Settles O48: JMP is `setPc`, whatever the PC was. -/
theorem jumpGoesToOperand : Obligations.JumpGoesToOperand := fun _ _ => rfl

/-- Settles O49: RJ is `setPc` to the relative target. -/
theorem relativeJump : Obligations.RelativeJump := fun s n => ⟨_, relTarget_isRelTarget s n, rfl⟩

/-- An instruction that is `jumpIf` on a condition keeps the rule of `43` R298. -/
theorem jumpRule_of_jumpIf {mk : BitVec 8 → Instr} {c : Flags → Bool} {taken : Flags → Prop}
    (hmk : ∀ n s, exec (mk n) s = jumpIf (c s.status) n s) (hc : ∀ fl, c fl = true ↔ taken fl) :
    JumpRule mk taken := by
  intro s n
  rw [hmk]
  refine ⟨fun ht => ⟨_, relTarget_isRelTarget s n, ?_⟩, fun hn => ?_⟩
  · rw [jumpIf, if_pos ((hc _).mpr ht)]
    rfl
  · rw [jumpIf, if_neg (mt (hc _).mp hn)]

/-- A jump on a flag that is set. -/
theorem jumpRule_of_set {mk : BitVec 8 → Instr} {flag : Flags → Bool}
    (hmk : ∀ n s, exec (mk n) s = jumpIf (flag s.status) n s) : JumpRule mk fun fl => flag fl = true :=
  jumpRule_of_jumpIf hmk fun _ => Iff.rfl

/-- A jump on a flag that is clear. -/
theorem jumpRule_of_clear {mk : BitVec 8 → Instr} {flag : Flags → Bool}
    (hmk : ∀ n s, exec (mk n) s = jumpIf (!flag s.status) n s) : JumpRule mk fun fl => flag fl = false :=
  jumpRule_of_jumpIf (c := fun fl => !flag fl) hmk fun _ => iff_of_eq (Bool.not_eq_true' _)

/-- Settles O50: each of the eight is `jumpIf` on its flag. -/
theorem conditionalJumps : Obligations.ConditionalJumps :=
  ⟨jumpRule_of_set fun _ _ => rfl, jumpRule_of_clear fun _ _ => rfl,
    jumpRule_of_set fun _ _ => rfl, jumpRule_of_clear fun _ _ => rfl,
    jumpRule_of_set fun _ _ => rfl, jumpRule_of_clear fun _ _ => rfl,
    jumpRule_of_set fun _ _ => rfl, jumpRule_of_clear fun _ _ => rfl⟩

/-! ## POP, NOP and the instructions of the watchdog and the run state -/

/-- POP's pointer in both cases: the subtraction stops at 0. -/
theorem exec_pop (s : State) : exec .pop s = .next { advance s 1 with sp := s.sp - 1 } := by
  have hsp : (if 1 ≤ s.sp then s.sp - 1 else s.sp) = s.sp - 1 := by
    split <;> omega
  simp only [exec, execPop, hsp]

/-- Settles O52: TOS afterwards is read at the lowered pointer. -/
theorem popDropsTop : Obligations.PopDropsTop := by
  refine fun s => ⟨fun h0 => ⟨?_, tos_empty h0⟩, fun _ => ⟨_, exec_pop s, rfl, fun h1 => ?_, fun v h2 hv => ?_⟩⟩
  · have hsp : s.sp - 1 = (advance s 1).sp := by rw [h0, advance_sp, h0]
    rw [exec_pop, hsp]
  · exact tos_empty (by rw [h1])
  · exact tos_of_entry (Nat.le_sub_of_add_le h2) hv

/-- Settles O51: NOP is `advance` by one word. -/
theorem nopOnlyMovesPc : Obligations.NopOnlyMovesPc := fun _ => rfl

/-- Settles O53: each writes its two fields after `advance`. -/
theorem watchdogIdleSleep : Obligations.WatchdogIdleSleep := fun _ => ⟨rfl, rfl, rfl⟩

end Sys2Proof.Proofs
end

section
/-! The bit writes of `spec/44_bit_ops.md`: the byte each writes back, bit by bit, and where it lands. -/

namespace Sys2Proof.Proofs

open Sys2Proof.Machine Sys2Proof.Claims

/-! ## The byte written back -/

theorem getLsbD_putBit (v : Byte) {p : Nat} (b : Bool) (k : Nat) (hp : p < 8) :
    (putBit v p b).getLsbD k = if k = p then b else v.getLsbD k := by
  split
  · next hk => rw [hk, getLsbD_putBit_same v b hp]
  · next hk => exact getLsbD_putBit_other v b (Ne.symm hk)

theorem getLsbD_toggle (v : Byte) {p k : Nat} (hk : k < 8) :
    (v ^^^ BitVec.twoPow 8 p).getLsbD k = if k = p then !v.getLsbD k else v.getLsbD k := by
  rw [BitVec.getLsbD_xor, BitVec.getLsbD_twoPow]
  split
  · next h => simp [← h, hk]
  · next h => simp [Ne.symm h]

/-! ## Where it lands (`20` R79, R81) -/

/-- With a readable operand a bit instruction is a write at the resolved address. -/
theorem fileBit_of_read {k : WriteKind} {f : Byte} {a : Bank} {g : Byte → Byte} {s : State} {x : Byte} {e : DataAddr}
    (hx : memRead (advance s 1) (effAddr f a s) = .ok x) (he : resolve s (effAddr f a s) = .ok e) :
    fileBit k f a g s = writeDirect k (advance s 1) e (g x) := by
  rw [fileBit, withByte_ok hx]
  exact memWrite_of_resolve (s := advance s 1) he

/-- A write that follows a read and writes no flag lands on PCLATL and STATUS too (`92` D12, D13). -/
theorem writeDirect_readModify_lands {k : WriteKind} {s : State} {e : DataAddr} {v : Byte} (hp : k ≠ .pure)
    (hf : k ≠ .modifyFlags)
    (h : takesByte (targetOf s.cfg e) = true ∨ targetOf s.cfg e = .reg .pclatl ∨ targetOf s.cfg e = .reg .status) :
    ∃ t, writeDirect k s e v = .next t ∧ Landed s t e v := by
  obtain ht | ht | ht := h
  · exact writeDirect_lands_takesByte ht
  · exact writeDirect_lands_pclatl hp ht
  · exact writeDirect_lands_status hf ht

/-- An instruction that is `fileBit` with a byte whose bit `b` alone is changed, by `g`, keeps the whole rule. -/
theorem bitRule_of_fileBit {mk : Byte → BitVec 3 → Bank → Instr} {kind : BitVec 3 → WriteKind}
    {change : BitVec 3 → Byte → Byte} {g : Bool → Bool}
    (hmk : ∀ f b a s, exec (mk f b a) s = fileBit (kind b) f a (change b) s)
    (hkind : ∀ b, kind b ≠ .pure ∧ kind b ≠ .modifyFlags)
    (hbits : ∀ b x, ∀ k < 8, (change b x).getLsbD k = if k = b.toNat then g (x.getLsbD k) else x.getLsbD k) :
    BitRule mk g where
  lands s f b a x e hx he ht := by
    obtain ⟨hp, hf⟩ := hkind b
    obtain ⟨t, hw, hl⟩ := writeDirect_readModify_lands (s := advance s 1) (v := change b x) hp hf ht
    exact ⟨_, t, hbits b x, by rw [hmk, fileBit_of_read hx he, hw], hl⟩
  unreadable s f b a q hx := by
    rw [hmk, fileBit, withByte_error hx]

/-- Settles O35: each of the three is `fileBit` with its byte. -/
theorem bitWrites : Obligations.BitWrites :=
  ⟨bitRule_of_fileBit (fun _ _ _ _ => rfl) (fun _ => ⟨nofun, nofun⟩) fun b x k _ => getLsbD_putBit x false k b.isLt,
    bitRule_of_fileBit (fun _ _ _ _ => rfl) (fun _ => ⟨nofun, nofun⟩) fun b x k _ => getLsbD_putBit x true k b.isLt,
    bitRule_of_fileBit (fun _ _ _ _ => rfl) (fun _ => ⟨nofun, nofun⟩) fun _ x _ hk => getLsbD_toggle x hk⟩

end Sys2Proof.Proofs
end

section
/-! The pointer loads LDPR (`41` R241) and MVLP (`45` R330), and the table reads TBLR * and TBLR *+
(`45` R331, R332). -/

namespace Sys2Proof.Proofs

open Sys2Proof.Machine Sys2Proof.Claims

/-! ## Pointer loads -/

/-- The upper part of a literal, in a byte with zeros above it (`92` D16). -/
theorem toNat_upperPart {m : Nat} (k : BitVec (8 + m)) (hm : m ≤ 8) :
    ((k.extractLsb' 8 m).setWidth 8).toNat = k.toNat / 256 := by
  have hk : k.toNat / 2 ^ 8 < 2 ^ m := Nat.div_lt_of_lt_mul (Nat.pow_add 2 8 m ▸ k.isLt)
  rw [BitVec.toNat_setWidth_of_le hm, BitVec.extractLsb'_toNat, Nat.shiftRight_eq_div_pow]
  exact Nat.mod_eq_of_lt hk

/-- Settles O42: each load writes the upper part and the low byte of its literal. -/
theorem pointerLoads : Obligations.PointerLoads :=
  ⟨fun _ k => ⟨_, _, toNat_upperPart (m := 3) k (by decide), BitVec.toNat_setWidth 8 k, rfl, rfl⟩,
    fun _ k => ⟨_, _, toNat_upperPart (m := 6) k (by decide), BitVec.toNat_setWidth 8 k, rfl⟩⟩

/-! ## Table reads -/

/-- Where the product has a word at the table pointer, that word is read. -/
theorem tableWord_of_cell {s : State} {c : ProgCell} (hs : tablePtr s < progSpace) (hp : tablePtr s < s.cfg.progSize)
    (hc : cellRead s.prog (tablePtr s) = some c) : tableWord s = c.word := by
  rw [tableWord, if_pos ⟨hs, hp⟩, hc]

/-- The pair takes the sum modulo 2^8 in its low byte and, up to 3FFFH, the whole of it (`45` R332). -/
theorem bumpTable_spec (s : State) : ∃ (ph : UpperReg) (pl : Byte),
    bumpTable s = { s with tblptrh := ph, tblptrl := pl } ∧
    pl.toNat = (s.tblptrl.toNat + 1) % 256 ∧
    (tablePtr s + 1 < progSpace → ph.byte.toNat * 256 + pl.toNat = tablePtr s + 1 ∧ ph.hiOpen = false) := by
  refine ⟨_, _, rfl, ?low, fun hq => ?pair⟩
  case low =>
    rw [BitVec.toNat_ofNat, tablePtr]
    omega
  case pair =>
    have hlast : tablePtr s + 1 < 16384 := hq
    rw [if_pos hq, BitVec.toNat_ofNat, BitVec.toNat_ofNat]
    exact ⟨by omega, rfl⟩

/-- Settles O54: both forms are `loadTable` of the word at the old pointer, and TBLR *+ bumps the pointer after it. -/
theorem tableReads : Obligations.TableReads := by
  intro s
  obtain ⟨ph, pl, hb, hlow, hpair⟩ := bumpTable_spec (loadTable (advance s 1))
  exact ⟨tableWord (advance s 1), fun c hs hp hc => tableWord_of_cell (s := advance s 1) hs hp hc,
    _, _, (toNat_bytes _).symm, rfl, ph, pl, congrArg Host.Outcome.next hb, hlow, hpair⟩

end Sys2Proof.Proofs
end

section
/-! SUPPORT. What one instruction and one interrupt entry can do to the return stack with its flags, to GIE and to data
memory (`60` sections 1 and 3; `10` R41), said once for all 67 forms (`StackShape`) and for a whole step
(`step_stackCases`). -/

namespace Sys2Proof.Proofs

open Sys2Proof.Machine Sys2Proof.Claims

/-! ## The shape of every instruction -/

/-- The return stack with its flags, GIE, data memory and the product are in `t` as in `s`. -/
structure SameStack (s t : State) : Prop where
  stk : t.stk = s.stk
  sp : t.sp = s.sp
  stkfl : t.stkfl = s.stkfl
  stkov : t.stkov = s.stkov
  stkun : t.stkun = s.stkun
  skerr : t.skerr = s.skerr
  gie : t.gie = s.gie
  mem : t.mem = s.mem
  cfg : t.cfg = s.cfg

theorem SameStack.refl (s : State) : SameStack s s := ⟨rfl, rfl, rfl, rfl, rfl, rfl, rfl, rfl, rfl⟩

theorem sameStack_advance (s : State) (n : Nat) : SameStack s (advance s n) :=
  ⟨rfl, rfl, rfl, rfl, rfl, rfl, rfl, rfl, rfl⟩

theorem SameStack.setPc {s t : State} (h : SameStack s t) (p : ProgAddr) : SameStack s (setPc t p) :=
  ⟨h.stk, h.sp, h.stkfl, h.stkov, h.stkun, h.skerr, h.gie, h.mem, h.cfg⟩

/-- How each instruction writes at a data address: only BCF clears and only BSF sets a bit, the one it names at its own
operand (`44` R320, R321); every other write is of a whole byte. -/
inductive WritesAs (s : State) : Instr → WriteKind → DataAddr → Prop where
  | pure {i : Instr} {a : DataAddr} : WritesAs s i .pure a
  | modify {i : Instr} {a : DataAddr} : WritesAs s i .modify a
  | modifyFlags {i : Instr} {a : DataAddr} : WritesAs s i .modifyFlags a
  | bitClear {f : Byte} {b : BitVec 3} {a : Bank} : WritesAs s (.bcf f b a) (.bitClear b.toNat) (effAddr f a s)
  | bitSet {f : Byte} {b : BitVec 3} {a : Bank} : WritesAs s (.bsf f b a) (.bitSet b.toNat) (effAddr f a s)

/-- `s` after a push on a full stack that does not reset the chip: the top entry holds `q` (`60` R400; `92` D5). -/
def overflowed (s : State) (q : ProgAddr) : State :=
  { s with stkov := true, skerr := true, stk := s.stk.set (s.cfg.stackDepth - 1) q }

/-- The states a push on `s` goes on with (`60` R400). -/
inductive IsPush (s : State) : State → Prop where
  | room (v : ProgAddr) (h : s.sp < s.cfg.stackDepth) : IsPush s (pushed s v)
  | full (q : ProgAddr) (h : s.cfg.stackDepth ≤ s.sp) : IsPush s (overflowed s q)

/-- From `s` to `t` the stack was pushed, and GIE is then `g`. -/
def AfterPush (s : State) (g : Bool) (t : State) : Prop := ∃ u, IsPush s u ∧ SameStack { u with gie := g } t

/-- What an instruction that raises no reset makes of the stack, its flags, GIE and data memory: nothing, one
data-space write, a push, or a pop. -/
inductive StackShape (i : Instr) (s t : State) : Prop where
  | kept (ht : SameStack s t)
  | stored {k : WriteKind} {u u' : State} {a : DataAddr} {v : Byte} (hu : SameStack s u) (hk : WritesAs s i k a)
      (hr : resolve u a = resolve s a) (hw : memWrite k u a v = .next u') (ht : SameStack u' t)
  | pushed (hi : i.op ∈ [Op.call, Op.rcall]) (ht : AfterPush s s.gie t)
  | popped {g : Bool} (hi : i.op ∈ [Op.ret, Op.reti, Op.retl, Op.pop]) (hg : g = s.gie ∨ ∃ sh, i = .reti sh)
      (ht : SameStack { s with sp := s.sp - 1, gie := g } t)

/-! ## The families' shapes -/

theorem stackShape_of_dest {i : Instr} {k : WriteKind} {d : Dest} {s u u' t : State} {ea : DataAddr} {v : Byte}
    (h : dest k d ea v u = .next u') (hu : SameStack s u) (hk : WritesAs s i k ea) (hr : resolve u ea = resolve s ea)
    (ht : SameStack u' t) : StackShape i s t := by
  obtain ⟨-, rfl⟩ | ⟨-, h⟩ := dest_next h
  · exact .kept ⟨ht.stk.trans hu.stk, ht.sp.trans hu.sp, ht.stkfl.trans hu.stkfl, ht.stkov.trans hu.stkov,
      ht.stkun.trans hu.stkun, ht.skerr.trans hu.skerr, ht.gie.trans hu.gie, ht.mem.trans hu.mem, ht.cfg.trans hu.cfg⟩
  · exact .stored hu hk hr h ht

theorem stackShape_of_fileFlagged (i : Instr) {f : Byte} {d : Dest} {a : Bank} {g : State → Byte → AluResult}
    {s t : State} (h : fileFlagged f d a g s = .next t) : StackShape i s t := by
  obtain ⟨x, -, h⟩ := fileFlagged_next h
  exact stackShape_of_dest h ⟨rfl, rfl, rfl, rfl, rfl, rfl, rfl, rfl, rfl⟩ .modifyFlags rfl (.refl t)

theorem stackShape_of_fileUnflagged (i : Instr) {f : Byte} {d : Dest} {a : Bank} {g : Byte → Byte} {s t : State}
    (h : fileUnflagged f d a g s = .next t) : StackShape i s t := by
  obtain ⟨x, -, h⟩ := fileUnflagged_next h
  exact stackShape_of_dest h (sameStack_advance s 1) .modify rfl (.refl t)

theorem stackShape_of_countSkip (i : Instr) {f : Byte} {d : Dest} {a : Bank} {g : Byte → Byte} {c : Byte → Bool}
    {s t : State} (h : countSkip f d a g c s = .next t) : StackShape i s t := by
  obtain ⟨x, u, -, hd, rfl | ⟨p, rfl⟩⟩ := countSkip_next h
  · exact stackShape_of_dest hd (sameStack_advance s 1) .modify rfl (.refl t)
  · exact stackShape_of_dest hd (sameStack_advance s 1) .modify rfl ((SameStack.refl u).setPc p)

/-- A write straight after the PC has moved. -/
theorem stackShape_of_memWrite {i : Instr} {k : WriteKind} {n : Nat} {a : DataAddr} {v : Byte} {s t : State}
    (h : memWrite k (advance s n) a v = .next t) (hk : WritesAs s i k a) : StackShape i s t :=
  .stored (sameStack_advance s n) hk rfl h (.refl t)

theorem stackShape_of_fileBit {i : Instr} {k : WriteKind} {f : Byte} {a : Bank} {g : Byte → Byte} {s t : State}
    (h : fileBit k f a g s = .next t) (hk : WritesAs s i k (effAddr f a s)) : StackShape i s t := by
  obtain ⟨x, -, h⟩ := fileBit_next h
  exact stackShape_of_memWrite h hk

theorem sameStack_of_testSkip {f : Byte} {a : Bank} {c : Byte → Bool} {s t : State}
    (h : testSkip f a c s = .next t) : SameStack s t := by
  obtain ⟨x, -, rfl | ⟨p, rfl⟩⟩ := testSkip_next h
  · exact sameStack_advance s 1
  · exact (sameStack_advance s 1).setPc p

theorem sameStack_of_jumpIf {c : Bool} {n : BitVec 8} {s t : State} (h : jumpIf c n s = .next t) :
    SameStack s t := by
  cases c with
  | false => cases h; exact sameStack_advance s 1
  | true => cases h; exact (sameStack_advance s 1).setPc _

/-! ## Pushes and pops -/

/-- A push resets the chip, or goes on with one of the states of `60` R400. -/
theorem pushThen_isPush (s : State) (v : ProgAddr) (k : State → State) :
    ResetFrom s (pushThen s v k) ∨ ∃ u, IsPush s u ∧ pushThen s v k = k u := by
  obtain ⟨hroom, h⟩ | ⟨-, -, h⟩ | ⟨hfull, -, h⟩ := pushThen_cases s v k
  · exact .inr ⟨_, .room v hroom, h⟩
  · exact .inl ⟨_, h, rfl, rfl⟩
  · exact .inr ⟨_, .full _ hfull, h⟩

/-- A push looks at the stack alone. -/
theorem IsPush.congr {s s' u : State} (h : IsPush s' u) (hs : SameStack s s') : ∃ w, IsPush s w ∧ SameStack w u := by
  obtain ⟨hstk, hsp, hfl, hov, hun, hsk, hg, hm, hc⟩ := hs
  cases h with
  | room v hroom =>
    refine ⟨_, .room v (hsp ▸ hc ▸ hroom), ?_, ?_, ?_, hov, hun, hsk, hg, hm, hc⟩
    · simp [pushed, hstk, hsp]
    · simp [pushed, hsp]
    · simp [pushed, hfl, hsp, hc]
  | full q hfull =>
    refine ⟨_, .full q (hsp ▸ hc ▸ hfull), ?_, hsp, hfl, rfl, hun, rfl, hg, hm, hc⟩
    simp [overflowed, hstk, hc]

/-- No push touches GIE. -/
theorem IsPush.gie {s u : State} (h : IsPush s u) : u.gie = s.gie := by
  cases h <;> rfl

/-- A push from a state with the stack of `s`, followed by something that moves no part of it but takes GIE to `g`. -/
theorem pushThen_afterPush {s s' : State} {v : ProgAddr} {k : State → State} (g : Bool → Bool)
    (hs : SameStack s s') (hk : ∀ x, SameStack { x with gie := g x.gie } (k x)) :
    ResetFrom s' (pushThen s' v k) ∨ AfterPush s (g s.gie) (pushThen s' v k) := by
  obtain h | ⟨u, hu, h⟩ := pushThen_isPush s' v k
  · exact .inl h
  · obtain ⟨w, hw, hwu⟩ := hu.congr hs
    obtain ⟨kstk, ksp, kfl, kov, kun, ksk, kg, km, kc⟩ := hk u
    have hg : u.gie = s.gie := hwu.gie.trans hw.gie
    exact .inr ⟨w, hw, h ▸ ⟨kstk.trans hwu.stk, ksp.trans hwu.sp, kfl.trans hwu.stkfl, kov.trans hwu.stkov,
      kun.trans hwu.stkun, ksk.trans hwu.skerr, hg ▸ kg, km.trans hwu.mem, kc.trans hwu.cfg⟩⟩

/-- What an instruction that goes on answers. -/
def StackOutcome (i : Instr) (s t : State) : Prop := StackShape i s t ∨ ResetFrom s t

/-- A call: the push from a state with the stack of `s`, then the jump. -/
theorem stackOutcome_of_call {i : Instr} {s s' : State} (hi : i.op ∈ [Op.call, Op.rcall]) (hs : SameStack s s')
    (hp : s'.prog = s.prog) (v n : ProgAddr) : StackOutcome i s (pushThen s' v fun u => setPc u n) := by
  obtain ⟨u, hu, hprog, hcfg⟩ | h := pushThen_afterPush (v := v) id hs fun x => (SameStack.refl x).setPc n
  · exact .inr ⟨u, hu, hprog.trans hp, hcfg.trans hs.cfg⟩
  · exact .inl (.pushed hi h)

/-- A return: the pop, then something that moves no part of the stack but takes GIE to `g`. -/
theorem stackOutcome_of_return {i : Instr} {s t : State} {k : State → State} (g : Bool → Bool)
    (h : popThen s k = .next t) (hi : i.op ∈ [Op.ret, Op.reti, Op.retl, Op.pop])
    (hg : g s.gie = s.gie ∨ ∃ sh, i = .reti sh) (hk : ∀ x, SameStack { x with gie := g x.gie } (k x)) :
    StackOutcome i s t := by
  obtain hr | ⟨p, rfl⟩ := popThen_spec h
  · exact .inr hr
  · obtain ⟨kstk, ksp, kfl, kov, kun, ksk, kg, km, kc⟩ := hk (setPc { s with sp := s.sp - 1 } p)
    exact .inl (.popped hi hg ⟨kstk, ksp, kfl, kov, kun, ksk, kg, km, kc⟩)

/-- Every instruction that goes on has the one shape, or has raised a reset. -/
theorem exec_stackOutcome {i : Instr} {s t : State} (h : exec i s = .next t) : StackOutcome i s t := by
  cases i with
  | addc | addf | andf | arlc | arrc | comf | dcf | inf | iorf | rlf | rlfc | rrf | rrfc | subc | subf | xorf =>
    simp only [exec] at h
    exact .inl (stackShape_of_fileFlagged _ h)
  | swpf =>
    simp only [exec] at h
    exact .inl (stackShape_of_fileUnflagged _ h)
  | dcsuz | dcsz | insuz | insz =>
    simp only [exec] at h
    exact .inl (stackShape_of_countSkip _ h)
  | bcf =>
    simp only [exec] at h
    exact .inl (stackShape_of_fileBit h .bitClear)
  | bsf =>
    simp only [exec] at h
    exact .inl (stackShape_of_fileBit h .bitSet)
  | btgf =>
    simp only [exec] at h
    exact .inl (stackShape_of_fileBit h .modify)
  | clrf | setf =>
    simp only [exec] at h
    exact .inl (stackShape_of_memWrite h .pure)
  | mvff =>
    obtain ⟨x, -, h⟩ := withByte_next h
    exact .inl (stackShape_of_memWrite h .pure)
  | mvf f d a =>
    cases d with
    | w =>
      obtain ⟨x, -, h⟩ := withByte_next h
      cases h
      exact .inl (.kept ⟨rfl, rfl, rfl, rfl, rfl, rfl, rfl, rfl, rfl⟩)
    | f => exact .inl (stackShape_of_memWrite h .pure)
  | mulf =>
    obtain ⟨x, -, h⟩ := withByte_next h
    cases h
    exact .inl (.kept ⟨rfl, rfl, rfl, rfl, rfl, rfl, rfl, rfl, rfl⟩)
  | cpse | cpsg | cpsl | tfsz | btss | btsz =>
    simp only [exec] at h
    exact .inl (.kept (sameStack_of_testSkip h))
  | jc | jnc | jn | jnn | jo | jno | jz | jnz =>
    simp only [exec] at h
    exact .inl (.kept (sameStack_of_jumpIf h))
  | ldpr k f => cases f <;> cases h <;> exact .inl (.kept ⟨rfl, rfl, rfl, rfl, rfl, rfl, rfl, rfl, rfl⟩)
  | addl | andl | iorl | subl | xorl | mvl | mull | lbsr | jmp | rj | nop | cwdt | idle | slp | mvlp | tblr
  | tblrInc =>
    cases h
    exact .inl (.kept ⟨rfl, rfl, rfl, rfl, rfl, rfl, rfl, rfl, rfl⟩)
  | pop =>
    cases (exec_pop s).symm.trans h
    exact .inl (.popped (by simp [Instr.op]) (.inl rfl) ⟨rfl, rfl, rfl, rfl, rfl, rfl, rfl, rfl, rfl⟩)
  | call n sh =>
    have hs : SameStack s (if sh then saveShadows (advance s 2) else advance s 2) := by
      cases sh <;> exact ⟨rfl, rfl, rfl, rfl, rfl, rfl, rfl, rfl, rfl⟩
    cases h
    exact stackOutcome_of_call (by simp [Instr.op]) hs (by cases sh <;> rfl) _ n
  | rcall =>
    cases h
    exact stackOutcome_of_call (by simp [Instr.op]) (sameStack_advance s 1) rfl _ _
  | ret sh =>
    simp only [exec, execRet] at h
    exact stackOutcome_of_return id h (by simp [Instr.op]) (.inl rfl) fun x => by
      cases sh <;> exact ⟨rfl, rfl, rfl, rfl, rfl, rfl, rfl, rfl, rfl⟩
  | reti sh =>
    simp only [exec, execReti] at h
    exact stackOutcome_of_return (fun _ => true) h (by simp [Instr.op]) (.inr ⟨sh, rfl⟩) fun x => by
      cases sh <;> exact ⟨rfl, rfl, rfl, rfl, rfl, rfl, rfl, rfl, rfl⟩
  | retl =>
    simp only [exec, execRetl] at h
    exact stackOutcome_of_return id h (by simp [Instr.op]) (.inl rfl) fun x =>
      ⟨rfl, rfl, rfl, rfl, rfl, rfl, rfl, rfl, rfl⟩

/-! ## Whole steps -/

/-- An interrupt entry resets the chip, or pushes and clears GIE (`60` R412). -/
theorem interruptEntry_afterPush (s : State) : ResetFrom s (interruptEntry s) ∨ AfterPush s false (interruptEntry s) :=
  pushThen_afterPush (fun _ => false) (.refl s) fun x => by
    cases s.cfg.intShadowSave <;> exact ⟨rfl, rfl, rfl, rfl, rfl, rfl, rfl, rfl, rfl⟩

/-- What a step makes of the stack, its flags, GIE and data memory: a chip reset, nothing, an interrupt entry, or what
its instruction makes of them. -/
theorem step_stackCases {s t : State} (h : step s = .next t) :
    ResetFrom s t ∨ SameStack s t ∨ (EntersInterrupt s ∧ AfterPush (beginStep s) false t) ∨
      ∃ i, Runs s i ∧ StackShape i (beginStep s) t := by
  obtain ⟨hw, ⟨-, rfl⟩ | ⟨-, rfl⟩ | ⟨hq, hg, hk, rfl⟩ | ⟨-, rfl | rfl⟩ | ⟨i, hb, hf, h⟩⟩ := step_next h
  · exact .inl ⟨_, rfl, rfl, rfl⟩
  · exact .inr (.inl ⟨rfl, rfl, rfl, rfl, rfl, rfl, rfl, rfl, rfl⟩)
  · obtain hr | hp := interruptEntry_afterPush (beginStep s)
    · exact .inl hr
    · exact .inr (.inr (.inl ⟨entersInterrupt_of hw hq hg hk, hp⟩))
  · exact .inr (.inl ⟨rfl, rfl, rfl, rfl, rfl, rfl, rfl, rfl, rfl⟩)
  · exact .inr (.inl ⟨rfl, rfl, rfl, rfl, rfl, rfl, rfl, rfl, rfl⟩)
  · obtain hs | hr := exec_stackOutcome h
    · exact .inr (.inr (.inr ⟨i, ⟨hb, hf⟩, hs⟩))
    · exact .inl hr

end Sys2Proof.Proofs
end

section
/-! The rules of `60` sections 1 and 3 about every step: a sound state stays sound, SP moves by one, the sticky flags stay,
and who sets GIE. Each follows from `step_stackCases`. -/

namespace Sys2Proof.Proofs

open Sys2Proof.Machine Sys2Proof.Claims

/-! ## Sound states -/

/-- The part of a sound state that a step can touch: data memory in canonical form with values at plain cells only, the
stack in shape (`60` R403; `20` R79 cases 7 and 8). -/
structure SoundData (s : State) : Prop where
  canonical : Memory.wf s.mem = true
  stack : stackWf s
  inPlace : memInPlace s

theorem SoundData.of_sameStack {s t : State} (hs : SoundData s) (h : SameStack s t) : SoundData t := by
  refine ⟨h.mem ▸ hs.canonical, ?_, ?_⟩
  · rw [stackWf, h.stk, h.sp, h.cfg]
    exact hs.stack
  · rw [memInPlace, h.mem, h.cfg]
    exact hs.inPlace

/-- A data-space write puts a value only at a plain cell, and keeps the canonical form. -/
theorem SoundData.of_memWrite {k : WriteKind} {s t : State} {a : DataAddr} {v : Byte} (hs : SoundData s)
    (h : memWrite k s a v = .next t) : SoundData t := by
  obtain ⟨-, -, hc, -⟩ := memWrite_next h
  have hstack : stackWf t := by
    rw [stackWf, hc.stk, hc.sp, hc.cfg]
    exact hs.stack
  obtain hm | ⟨e, -, hram, hm⟩ := memWrite_mem h
  · refine ⟨hm ▸ hs.canonical, hstack, ?_⟩
    rw [memInPlace, hm, hc.cfg]
    exact hs.inPlace
  · refine ⟨hm ▸ cellsWf_cellWrite _ _ hs.canonical, hstack, fun b x hb => ?_⟩
    rw [hm] at hb
    rw [hc.cfg]
    obtain hnew | hold := mem_cellWrite hb
    · cases hnew
      exact ⟨e, rfl, hram⟩
    · exact hs.inPlace b x hold

/-- A push raises SP to L at most and keeps the number of entries. -/
theorem SoundData.of_isPush {s u : State} (hs : SoundData s) (h : IsPush s u) : SoundData u := by
  obtain ⟨hcanon, ⟨hlen, hsp⟩, hplace⟩ := hs
  cases h with
  | room v hroom => exact ⟨hcanon, ⟨(List.length_set ..).trans hlen, hroom⟩, hplace⟩
  | full q hfull => exact ⟨hcanon, ⟨(List.length_set ..).trans hlen, hsp⟩, hplace⟩

/-- GIE is no part of it. -/
theorem SoundData.setGie {s : State} (hs : SoundData s) (g : Bool) : SoundData { s with gie := g } :=
  ⟨hs.canonical, hs.stack, hs.inPlace⟩

theorem SoundData.of_afterPush {s t : State} {g : Bool} (hs : SoundData s) (h : AfterPush s g t) : SoundData t := by
  obtain ⟨u, hu, ht⟩ := h
  exact ((hs.of_isPush hu).setGie g).of_sameStack ht

theorem SoundData.of_stackShape {i : Instr} {s t : State} (hs : SoundData s) (h : StackShape i s t) :
    SoundData t := by
  cases h with
  | kept ht => exact hs.of_sameStack ht
  | stored hu _ _ hw ht => exact ((hs.of_sameStack hu).of_memWrite hw).of_sameStack ht
  | pushed _ ht => exact hs.of_afterPush ht
  | popped _ _ ht =>
    obtain ⟨hcanon, ⟨hlen, hsp⟩, hplace⟩ := hs
    have hpop : SoundData { s with sp := s.sp - 1 } := ⟨hcanon, ⟨hlen, (Nat.sub_le _ _).trans hsp⟩, hplace⟩
    exact (hpop.setGie _).of_sameStack ht

/-- A reset leaves no value in data memory, SP = 0 and L entries. -/
theorem soundData_of_resetFrom {s t : State} (h : ResetFrom s t) : SoundData t := by
  obtain ⟨u, rfl, -⟩ := h
  exact ⟨rfl, ⟨chipReset_stk_length u, Nat.zero_le _⟩, fun _ _ hm => absurd hm List.not_mem_nil⟩

/-- Settles O15: the product and program memory stay, and each of the step's cases keeps the rest. -/
theorem stepKeepsSound : Obligations.StepKeepsSound := by
  intro s t ⟨hcfg, hmem, hprog, hstack, hplace⟩ h
  obtain ⟨hp, hc⟩ := stepKeepsProgram s t h
  have hs : SoundData s := ⟨hmem, hstack, hplace⟩
  have hb : SoundData (beginStep s) := ⟨hmem, hstack, hplace⟩
  have ht : SoundData t := by
    obtain hr | hk | ⟨-, hpush⟩ | ⟨i, -, hshape⟩ := step_stackCases h
    · exact soundData_of_resetFrom hr
    · exact hs.of_sameStack hk
    · exact hb.of_afterPush hpush
    · exact hb.of_stackShape hshape
  exact ⟨hc ▸ hcfg, ht.canonical, hp ▸ hprog, ht.stack, ht.inPlace⟩

/-! ## The stack pointer -/

/-- From `s` to `t` SP moves by at most one, and the entries at or below both pointers stay, but for the top entry of a
full stack (`60` R403; `92` D5). -/
structure StackFrame (s t : State) : Prop where
  pointer : t.sp = s.sp ∨ t.sp = s.sp + 1 ∨ t.sp + 1 = s.sp
  entries : ∀ j, j < s.sp → j < t.sp → t.stk[j]? = s.stk[j]? ∨ (j + 1 = s.cfg.stackDepth ∧ s.sp = s.cfg.stackDepth)

/-- Where the entries stay, only the pointer counts. -/
theorem stackFrame_of_stk_eq {s t : State} (hp : t.sp = s.sp ∨ t.sp = s.sp + 1 ∨ t.sp + 1 = s.sp)
    (h : t.stk = s.stk) : StackFrame s t :=
  ⟨hp, fun _ _ _ => .inl (h ▸ rfl)⟩

theorem IsPush.stackFrame {s u : State} (hs : stackWf s) (h : IsPush s u) : StackFrame s u := by
  cases h with
  | room v hroom => exact ⟨.inr (.inl rfl), fun _ hj _ => .inl (List.getElem?_set_ne (Nat.ne_of_gt hj))⟩
  | full q hfull =>
    refine ⟨.inl rfl, fun j hj _ => ?_⟩
    have hsp : s.sp = s.cfg.stackDepth := Nat.le_antisymm hs.2 hfull
    by_cases htop : s.cfg.stackDepth - 1 = j
    · exact .inr ⟨by omega, hsp⟩
    · exact .inl (List.getElem?_set_ne htop)

theorem AfterPush.stackFrame {s t : State} {g : Bool} (hs : stackWf s) (h : AfterPush s g t) : StackFrame s t := by
  obtain ⟨u, hu, ht⟩ := h
  obtain ⟨hpointer, hentries⟩ := hu.stackFrame hs
  refine ⟨?_, ?_⟩
  · rw [ht.sp]
    exact hpointer
  · rw [ht.sp, ht.stk]
    exact hentries

/-- A data-space write moves no part of the stack. -/
theorem stored_stack {k : WriteKind} {s u u' t : State} {a : DataAddr} {v : Byte} (hu : SameStack s u)
    (hw : memWrite k u a v = .next u') (ht : SameStack u' t) : t.sp = s.sp ∧ t.stk = s.stk := by
  obtain ⟨-, -, hc, -⟩ := memWrite_next hw
  exact ⟨ht.sp.trans (hc.sp.trans hu.sp), ht.stk.trans (hc.stk.trans hu.stk)⟩

theorem StackShape.stackFrame {i : Instr} {s t : State} (hs : stackWf s) (h : StackShape i s t) :
    StackFrame s t := by
  cases h with
  | kept ht => exact stackFrame_of_stk_eq (.inl ht.sp) ht.stk
  | stored hu _ _ hw ht =>
    obtain ⟨hsp, hstk⟩ := stored_stack hu hw ht
    exact stackFrame_of_stk_eq (.inl hsp) hstk
  | pushed _ ht => exact ht.stackFrame hs
  | popped _ _ ht =>
    have hsp : t.sp = s.sp - 1 := ht.sp
    exact stackFrame_of_stk_eq (by omega) ht.stk

/-- Only a call, a return or POP moves the pointer. -/
theorem StackShape.op_of_sp_ne {i : Instr} {s t : State} (h : StackShape i s t) (hne : t.sp ≠ s.sp) :
    i.op ∈ [Op.call, Op.rcall, Op.ret, Op.reti, Op.retl, Op.pop] := by
  cases h with
  | kept ht => exact absurd ht.sp hne
  | stored hu _ _ hw ht => exact absurd (stored_stack hu hw ht).1 hne
  | pushed hi _ => exact List.mem_append_left [Op.ret, Op.reti, Op.retl, Op.pop] hi
  | popped hi _ _ => exact List.mem_append_right [Op.call, Op.rcall] hi

/-- Settles O18: the frame of each of the step's cases. -/
theorem stackPointerMovesByOne : Obligations.StackPointerMovesByOne := by
  intro s t hs h hr
  obtain hx | hk | ⟨henter, hpush⟩ | ⟨i, hi, hshape⟩ := step_stackCases h
  · exact absurd hx.wasReset hr
  · obtain ⟨hpointer, hentries⟩ := stackFrame_of_stk_eq (.inl hk.sp) hk.stk
    exact ⟨hpointer, fun hne => absurd hk.sp hne, hentries⟩
  · obtain ⟨hpointer, hentries⟩ := hpush.stackFrame (s := beginStep s) hs
    exact ⟨hpointer, fun _ => .inl henter, hentries⟩
  · obtain ⟨hpointer, hentries⟩ := hshape.stackFrame (s := beginStep s) hs
    exact ⟨hpointer, fun hne => .inr ⟨i, hi, hshape.op_of_sp_ne hne⟩, hentries⟩

/-! ## What a data-space write can do to GIE and the sticky flags (`20` R79 case 6; `92` D12) -/

/-- From `s` to `t`, by a write of kind `k` to the target `tg`: GIE rises only by a set of its bit, the flags of STKPTR and
SKERR change only by a clear of a bit of their register. -/
structure FlagEvents (k : WriteKind) (tg : Target) (s t : State) : Prop where
  gie : t.gie = s.gie ∨ t.gie = false ∨ (tg = .reg .gieReg ∧ k = .bitSet s.cfg.bitpos.gie)
  stkptr : (t.stkfl = s.stkfl ∧ t.stkov = s.stkov ∧ t.stkun = s.stkun) ∨ (tg = .reg .stkptr ∧ ∃ b, k = .bitClear b)
  skerr : t.skerr = s.skerr ∨ (tg = .reg .pstatus ∧ ∃ b, k = .bitClear b)

theorem flagEvents_of_eq {k : WriteKind} {tg : Target} {s t : State} (hg : t.gie = s.gie)
    (hs : t.stkfl = s.stkfl ∧ t.stkov = s.stkov ∧ t.stkun = s.stkun) (hk : t.skerr = s.skerr) : FlagEvents k tg s t :=
  ⟨.inl hg, .inl hs, .inl hk⟩

theorem writeSfr_flagEvents {k : WriteKind} {s t : State} {v : Byte} {r : Sfr} (h : writeSfr k s v r = .next t) :
    FlagEvents k (.reg r) s t := by
  cases r with
  | bsrcn | fsr0h | fsr0l | fsr1h | fsr1l | prodh | prodl | tblptrh | tblptrl | tbldh | tbldl =>
    cases h
    exact flagEvents_of_eq rfl ⟨rfl, rfl, rfl⟩ rfl
  | indf0 | indf1 | tosh | tosl | sbmset1 => cases h
  | status | pclatl => cases k <;> cases h <;> exact flagEvents_of_eq rfl ⟨rfl, rfl, rfl⟩ rfl
  | stkptr =>
    cases k with
    | bitClear b =>
      obtain rfl | rfl := clearStkptrBit_next h <;> exact ⟨.inl rfl, .inr ⟨rfl, b, rfl⟩, .inl rfl⟩
    | pure | modify | modifyFlags | bitSet => cases h
  | pstatus =>
    cases k with
    | bitClear b =>
      obtain rfl | rfl | rfl | rfl := clearPstatusBit_next h <;>
        exact ⟨.inl rfl, .inl ⟨rfl, rfl, rfl⟩, .inr ⟨rfl, b, rfl⟩⟩
    | pure | modify | modifyFlags | bitSet => cases h
  | gieReg =>
    cases k with
    | bitClear b =>
      simp only [writeSfr] at h
      split at h
      · cases h
        exact ⟨.inr (.inl rfl), .inl ⟨rfl, rfl, rfl⟩, .inl rfl⟩
      · cases h
    | bitSet b =>
      simp only [writeSfr] at h
      split at h
      · next hb =>
        cases h
        exact ⟨.inr (.inr ⟨rfl, congrArg _ hb⟩), .inl ⟨rfl, rfl, rfl⟩, .inl rfl⟩
      · cases h
    | pure | modify | modifyFlags => cases h

theorem memWrite_flagEvents {k : WriteKind} {s t : State} {a : DataAddr} {v : Byte}
    (h : memWrite k s a v = .next t) : ∃ e, resolve s a = .ok e ∧ FlagEvents k (targetOf s.cfg e) s t := by
  obtain ⟨e, he, -, ⟨-, rfl⟩ | ⟨-, rfl⟩ | ⟨r, hr, h, -⟩⟩ := memWrite_next h
  · exact ⟨e, he, flagEvents_of_eq rfl ⟨rfl, rfl, rfl⟩ rfl⟩
  · exact ⟨e, he, flagEvents_of_eq rfl ⟨rfl, rfl, rfl⟩ rfl⟩
  · exact ⟨e, he, hr ▸ writeSfr_flagEvents h⟩

/-- The data-space write of an instruction, seen from the states before and after the instruction. -/
theorem stored_flagEvents {k : WriteKind} {s u u' t : State} {a : DataAddr} {v : Byte} (hu : SameStack s u)
    (hr : resolve u a = resolve s a) (hw : memWrite k u a v = .next u') (ht : SameStack u' t) :
    ∃ e, resolve s a = .ok e ∧ FlagEvents k (targetOf s.cfg e) s t := by
  obtain ⟨e, he, hg, hs, hk⟩ := memWrite_flagEvents hw
  rw [hu.cfg, hu.gie, ← ht.gie] at hg
  rw [hu.cfg, hu.stkfl, hu.stkov, hu.stkun, ← ht.stkfl, ← ht.stkov, ← ht.stkun] at hs
  rw [hu.cfg, hu.skerr, ← ht.skerr] at hk
  exact ⟨e, hr ▸ he, hg, hs, hk⟩

/-! ## GIE -/

/-- Only RETI and BSF of the GIE bit take GIE from 0 to 1. -/
theorem StackShape.gie_raised {i : Instr} {s t : State} (h : StackShape i s t) (h0 : s.gie = false)
    (h1 : t.gie = true) :
    (∃ sh, i = .reti sh) ∨
      ∃ f b a e, i = .bsf f b a ∧ resolve s (effAddr f a s) = .ok e ∧ targetOf s.cfg e = .reg .gieReg ∧
        b.toNat = s.cfg.bitpos.gie.val := by
  have raised : t.gie ≠ s.gie := by simp [h0, h1]
  cases h with
  | kept ht => exact absurd ht.gie raised
  | stored hu hk hr hw ht =>
    obtain ⟨e, he, hg | hg | ⟨htg, hkind⟩, -, -⟩ := stored_flagEvents hu hr hw ht
    · exact absurd hg raised
    · exact absurd (hg.symm.trans h1) Bool.false_ne_true
    · cases hk with
      | pure | modify | modifyFlags | bitClear => cases hkind
      | bitSet => exact .inr ⟨_, _, _, e, rfl, he, htg, WriteKind.bitSet.inj hkind⟩
  | pushed _ ht =>
    obtain ⟨u, -, ht⟩ := ht
    exact absurd ht.gie raised
  | popped _ hg ht => exact .inl (hg.resolve_left fun hsame => raised (ht.gie.trans hsame))

/-- Settles O17: of the step's cases only the instruction can set GIE. -/
theorem gieRaisedOnlyByRetiOrBitSet : Obligations.GieRaisedOnlyByRetiOrBitSet := by
  intro s t h h0 h1
  have raised : t.gie ≠ s.gie := by simp [h0, h1]
  obtain ⟨u, rfl, -⟩ | hk | ⟨-, u, -, ht⟩ | ⟨i, hi, hshape⟩ := step_stackCases h
  · exact absurd h1 (by simp)
  · exact absurd hk.gie raised
  · exact absurd (ht.gie.symm.trans h1) Bool.false_ne_true
  · exact ⟨i, hi, hshape.gie_raised (s := beginStep s) h0 h1⟩

/-! ## The sticky flags -/

/-- The flags of STKPTR that are set in `s` are set in `t`. -/
structure StkptrStays (s t : State) : Prop where
  stkfl : s.stkfl = true → t.stkfl = true
  stkov : s.stkov = true → t.stkov = true
  stkun : s.stkun = true → t.stkun = true

theorem stkptrStays_of_eq {s t : State} (h : t.stkfl = s.stkfl ∧ t.stkov = s.stkov ∧ t.stkun = s.stkun) :
    StkptrStays s t :=
  ⟨h.1.trans, h.2.1.trans, h.2.2.trans⟩

theorem SameStack.stkptrStays {s t : State} (h : SameStack s t) : StkptrStays s t :=
  stkptrStays_of_eq ⟨h.stkfl, h.stkov, h.stkun⟩

/-- A push sets flags only. -/
theorem AfterPush.flags {s t : State} {g : Bool} (h : AfterPush s g t) :
    StkptrStays s t ∧ (s.skerr = true → t.skerr = true) := by
  obtain ⟨u, hu, ht⟩ := h
  cases hu with
  | room v hroom =>
    exact ⟨⟨fun hs => ht.stkfl.trans (by simp [pushed, hs]), ht.stkov.trans, ht.stkun.trans⟩, ht.skerr.trans⟩
  | full q hfull => exact ⟨⟨ht.stkfl.trans, fun _ => ht.stkov, ht.stkun.trans⟩, fun _ => ht.skerr⟩

/-- The instruction is a BCF whose operand resolves to the register `r`. -/
def ClearsBitOf (i : Instr) (s : State) (r : Sfr) : Prop :=
  ∃ f b a e, i = .bcf f b a ∧ resolve s (effAddr f a s) = .ok e ∧ targetOf s.cfg e = .reg r

/-- A clear of a bit is BCF's, at its operand. -/
theorem clearsBitOf_of_writesAs {i : Instr} {s : State} {k : WriteKind} {a e : DataAddr} {r : Sfr}
    (hk : WritesAs s i k a) (hb : ∃ b, k = .bitClear b) (he : resolve s a = .ok e)
    (ht : targetOf s.cfg e = .reg r) : ClearsBitOf i s r := by
  obtain ⟨b, rfl⟩ := hb
  cases hk
  exact ⟨_, _, _, e, rfl, he, ht⟩

/-- Only a BCF of their register clears a flag of STKPTR, or SKERR. -/
theorem StackShape.flags {i : Instr} {s t : State} (h : StackShape i s t) :
    (StkptrStays s t ∨ ClearsBitOf i s .stkptr) ∧ ((s.skerr = true → t.skerr = true) ∨ ClearsBitOf i s .pstatus) := by
  cases h with
  | kept ht => exact ⟨.inl ht.stkptrStays, .inl ht.skerr.trans⟩
  | stored hu hk hr hw ht =>
    obtain ⟨e, he, -, hs, hsk⟩ := stored_flagEvents hu hr hw ht
    exact ⟨hs.imp stkptrStays_of_eq fun ⟨htg, hb⟩ => clearsBitOf_of_writesAs hk hb he htg,
      hsk.imp Eq.trans fun ⟨htg, hb⟩ => clearsBitOf_of_writesAs hk hb he htg⟩
  | pushed _ ht => exact ht.flags.imp .inl .inl
  | popped _ _ ht => exact ⟨.inl (stkptrStays_of_eq ⟨ht.stkfl, ht.stkov, ht.stkun⟩), .inl ht.skerr.trans⟩

/-- The same for a whole step. -/
theorem step_flags {s t : State} (h : step s = .next t) (hr : ¬WasReset t) :
    (StkptrStays s t ∨ ∃ i, Runs s i ∧ ClearsBitOf i s .stkptr) ∧
      ((s.skerr = true → t.skerr = true) ∨ ∃ i, Runs s i ∧ ClearsBitOf i s .pstatus) := by
  obtain hx | hk | ⟨-, hpush⟩ | ⟨i, hi, hshape⟩ := step_stackCases h
  · exact absurd hx.wasReset hr
  · exact ⟨.inl hk.stkptrStays, .inl hk.skerr.trans⟩
  · obtain ⟨hs, hsk⟩ := hpush.flags
    exact ⟨.inl ⟨hs.stkfl, hs.stkov, hs.stkun⟩, .inl hsk⟩
  · obtain ⟨hs, hsk⟩ := hshape.flags
    exact ⟨hs.imp (fun hf => ⟨hf.stkfl, hf.stkov, hf.stkun⟩) fun hc => ⟨i, hi, hc⟩, hsk.imp_right fun hc => ⟨i, hi, hc⟩⟩

/-- Settles O19: a flag that fell did not stay, so the step ran the BCF. -/
theorem stackFlagsAreSticky : Obligations.StackFlagsAreSticky := by
  intro s t h hr
  obtain ⟨hs, hsk⟩ := step_flags h hr
  have fell {x y : Bool} (hx : x = true) (hy : y = false) : ¬(x = true → y = true) := fun hxy => by simp [hxy hx] at hy
  refine ⟨fun hfall => ?_, fun ⟨h1, h0⟩ => ?_⟩
  · have hnot : ¬StkptrStays s t := fun ⟨hfl, hov, hun⟩ =>
      hfall.elim (fun ⟨h1, h0⟩ => fell h1 h0 hfl)
        (·.elim (fun ⟨h1, h0⟩ => fell h1 h0 hov) fun ⟨h1, h0⟩ => fell h1 h0 hun)
    obtain ⟨i, hi, f, b, a, e, rfl, he, ht⟩ := hs.resolve_left hnot
    exact ⟨f, b, a, e, hi, he, ht⟩
  · obtain ⟨i, hi, f, b, a, e, rfl, he, ht⟩ := hsk.resolve_left (fell h1 h0)
    exact ⟨f, b, a, e, hi, he, ht⟩

end Sys2Proof.Proofs
end

section
/-! The chip reset, the stack at its two ends, and the bit writes of the system registers (`60` R400 to R402, R406;
`70` R450; `92` D5, D6, D12). -/

namespace Sys2Proof.Proofs

open Sys2Proof.Machine Sys2Proof.Claims

/-! ## The chip reset -/

/-- What the spec gives of the state after a chip reset (`10` R46). The PC, the watchdog counter and the shadows of the
state it is raised in play no part. -/
theorem chipReset_isReset (s : State) (p : ProgAddr) (past : Bool) (n : Nat) (w : Byte) (fl : Flags) (b : BitVec 3) :
    IsReset s (chipReset
      { s with pc := p, pcPast := past, wdt := n, wregsdw := w, stasdw := fl, bsrsdw := b }) where
  pc := ⟨rfl, rfl⟩
  running := ⟨rfl, rfl⟩
  stack := ⟨rfl, chipReset_stk_length _⟩
  interrupts := rfl
  option := rfl
  sticky hkeep := by simp [chipReset, stickyAfterReset, hkeep]
  memories := ⟨rfl, rfl⟩
  outside := ⟨rfl, rfl, rfl⟩

/-- A push that overflows and resets the chip does nothing more. -/
theorem pushThen_reset {s : State} (h : s.cfg.stackDepth ≤ s.sp) (hb : s.sbmset7 = true) (v : ProgAddr)
    (k : State → State) : pushThen s v k = chipReset { s with stkov := true, skerr := true } := by
  rw [pushThen, if_neg (Nat.not_lt.mpr h), if_pos hb]

/-- A push that overflows and does not reset the chip goes on with an open top entry (`92` D5). -/
theorem pushThen_overflowed {s : State} (h : s.cfg.stackDepth ≤ s.sp) (hb : s.sbmset7 = false) (v : ProgAddr)
    (k : State → State) : pushThen s v k = k (overflowed s (Config.openAddr s.tick .spoiledEntry)) := by
  rw [pushThen, if_neg (Nat.not_lt.mpr h), if_neg (Bool.eq_false_iff.mp hb)]
  rfl

/-! ## Calls on a full stack -/

/-- CALL is a push after the PC has moved and the shadows were taken. -/
theorem exec_call_eq_push (s : State) (n : ProgAddr) (sh : Bool) :
    exec (.call n sh) s =
      .next (pushThen (advance (shadowed sh s) 2) (returnAddr (advance s 2)) fun u => setPc u n) := by
  cases sh <;> rfl

theorem exec_rcall_eq_push (s : State) (n : BitVec 11) :
    exec (.rcall n) s =
      .next (pushThen (advance s 1) (returnAddr (advance s 1)) fun u => setPc u (relTarget (advance s 1) n)) := rfl

/-- Settles O45: both calls are a push, which has no room. -/
theorem callOverflow : Obligations.CallOverflow := by
  intro s hfull
  refine ⟨fun hb => ⟨fun n sh => ?_, fun n => ?_⟩, fun hb => ⟨fun n sh => ?_, fun n => ?_⟩⟩
  · rw [exec_call_eq_push, pushThen_reset (s := advance (shadowed sh s) 2) hfull.ge hb]
    exact ⟨_, rfl, chipReset_isReset { s with stkov := true, skerr := true } _ _ _ _ _ _⟩
  · rw [exec_rcall_eq_push, pushThen_reset (s := advance s 1) hfull.ge hb]
    exact ⟨_, rfl, chipReset_isReset { s with stkov := true, skerr := true } _ _ _ _ _ _⟩
  · rw [exec_call_eq_push, pushThen_overflowed (s := advance (shadowed sh s) 2) hfull.ge hb]
    exact ⟨_, rfl⟩
  · rw [exec_rcall_eq_push, pushThen_overflowed (s := advance s 1) hfull.ge hb]
    exact ⟨_, _, relTarget_isRelTarget s n, rfl⟩

/-! ## Returns on an empty stack -/

theorem popThen_reset {s : State} (h : s.sp = 0) (hb : s.sbmset7 = true) (k : State → State) :
    popThen s k = .next (chipReset { s with stkun := true, skerr := true }) := by
  rw [popThen, if_pos h, if_pos hb]

theorem popThen_underflow {s : State} (h : s.sp = 0) (hb : s.sbmset7 = false) (k : State → State) :
    popThen s k = .fault .stackUnderflow := by
  rw [popThen, if_pos h, if_neg (Bool.eq_false_iff.mp hb)]

/-- Each of the three returns is `popThen` with a rest of its own. -/
theorem exec_return {i : Instr} (hi : (∃ sh, i = .ret sh) ∨ (∃ sh, i = .reti sh) ∨ ∃ k, i = .retl k) (s : State) :
    ∃ k, exec i s = popThen s k := by
  obtain ⟨sh, rfl⟩ | ⟨sh, rfl⟩ | ⟨k, rfl⟩ := hi
  · exact ⟨_, show execRet sh s = popThen s _ from rfl⟩
  · exact ⟨_, show execReti sh s = popThen s _ from rfl⟩
  · exact ⟨_, show execRetl k s = popThen s _ from rfl⟩

/-- Settles O47: whatever the rest of the return, the pop does not come to it. -/
theorem returnUnderflow : Obligations.ReturnUnderflow := by
  intro s h0 i hi
  obtain ⟨k, hk⟩ := exec_return hi s
  rw [hk]
  exact ⟨fun hb => ⟨_, popThen_reset h0 hb k, chipReset_isReset { s with stkun := true, skerr := true } _ _ _ _ _ _⟩,
    fun hb => popThen_underflow h0 hb k⟩

/-! ## Bit writes of the system registers (`60` R401; `92` D12) -/

/-- A bit instruction on a named register is a write of that register: a register is always readable. -/
theorem fileBit_onReg {k : WriteKind} {f : Byte} {a : Bank} {g : Byte → Byte} {s : State} {e : DataAddr} {r : Sfr}
    (he : resolve s (effAddr f a s) = .ok e) (ht : targetOf s.cfg e = .reg r) :
    fileBit k f a g s = writeSfr k (advance s 1) (g (readSfr (advance s 1) e r)) r := by
  rw [fileBit_of_read (memRead_reg (s := advance s 1) he ht) he]
  simp [writeDirect, ht]

theorem clearStkptrBit_stkfl_stkov {s : State} {b : Nat} (h : b = s.cfg.bitpos.stkfl.val ∨ b = s.cfg.bitpos.stkov.val) :
    clearStkptrBit s b = .next { s with stkfl := false, stkov := false } := if_pos h

/-- STKUN's bit is neither of the other two. -/
theorem clearStkptrBit_stkun {s : State} (hs : SoundBits s.cfg) :
    clearStkptrBit s s.cfg.bitpos.stkun = .next { s with stkun := false } := by
  have hdistinct := hs.stkptr
  simp only [List.nodup_cons, List.mem_cons, List.not_mem_nil, or_false, not_or, Fin.ext_iff] at hdistinct
  obtain ⟨⟨-, hfl⟩, hov, -⟩ := hdistinct
  simp [clearStkptrBit, Ne.symm hfl, Ne.symm hov]

theorem clearStkptrBit_other {s : State} {b : Nat} (hfl : b ≠ s.cfg.bitpos.stkfl.val)
    (hov : b ≠ s.cfg.bitpos.stkov.val) (hun : b ≠ s.cfg.bitpos.stkun.val) :
    clearStkptrBit s b = .refused (.systemRegisterWrite .stkptr) := by
  simp [clearStkptrBit, hfl, hov, hun]

/-- Each named bit of Pstatus is cleared alone: no two are at one position. -/
theorem clearPstatusBit_named {s : State} (hs : SoundBits s.cfg) :
    clearPstatusBit s s.cfg.bitpos.skerr = .next { s with skerr := false } ∧
      clearPstatusBit s s.cfg.bitpos.timeOut = .next { s with timeOut := false } ∧
      clearPstatusBit s s.cfg.bitpos.idleb = .next { s with idleb := false } ∧
      clearPstatusBit s s.cfg.bitpos.pd = .next { s with pd := false } := by
  have hdistinct := hs.pstatus
  simp only [List.nodup_cons, List.mem_cons, List.not_mem_nil, or_false, not_or, Fin.ext_iff] at hdistinct
  obtain ⟨⟨hst, hsi, hsp⟩, ⟨hti, htp⟩, hip, -⟩ := hdistinct
  simp [clearPstatusBit, Ne.symm hst, Ne.symm hsi, Ne.symm hsp, Ne.symm hti, Ne.symm htp, Ne.symm hip]

theorem clearPstatusBit_other {s : State} {b : Nat} (hsk : b ≠ s.cfg.bitpos.skerr.val)
    (hto : b ≠ s.cfg.bitpos.timeOut.val) (hid : b ≠ s.cfg.bitpos.idleb.val) (hpd : b ≠ s.cfg.bitpos.pd.val) :
    clearPstatusBit s b = .refused (.systemRegisterWrite .pstatus) := by
  simp [clearPstatusBit, hsk, hto, hid, hpd]

/-- No bit of a system register but GIE is set. -/
theorem writeSfr_bitSet_refused {s : State} {b : Nat} {v : Byte} {q : Sfr}
    (hq : q ∈ [Sfr.stkptr, .pstatus, .tosh, .tosl, .sbmset1]) :
    writeSfr (.bitSet b) s v q = .refused (.systemRegisterWrite q) := by
  simp only [List.mem_cons, List.not_mem_nil, or_false] at hq
  obtain rfl | rfl | rfl | rfl | rfl := hq <;> rfl

/-- No bit of TOSH, TOSL or SBMSET1 is cleared. -/
theorem writeSfr_bitClear_refused {s : State} {b : Nat} {v : Byte} {q : Sfr} (hq : q ∈ [Sfr.tosh, .tosl, .sbmset1]) :
    writeSfr (.bitClear b) s v q = .refused (.systemRegisterWrite q) := by
  simp only [List.mem_cons, List.not_mem_nil, or_false] at hq
  obtain rfl | rfl | rfl := hq <;> rfl

/-- Settles O36: each bit write is a write of its register, which the lemmas above settle bit by bit. -/
theorem systemBitWrites : Obligations.SystemBitWrites := by
  intro s f b a e hcfg he
  have hs : SoundBits (advance s 1).cfg := soundBits_of_cfgWf hcfg
  have clears {r : Sfr} (ht : targetOf s.cfg e = .reg r) : exec (.bcf f b a) s = writeSfr _ _ _ r :=
    fileBit_onReg he ht
  have sets {r : Sfr} (ht : targetOf s.cfg e = .reg r) : exec (.bsf f b a) s = writeSfr _ _ _ r :=
    fileBit_onReg he ht
  refine ⟨fun ht => ?stkptr, fun ht => ?pstatus, fun ht => ?gie, fun q hq ht => ?toggle,
    fun q hq ht => (sets ht).trans (writeSfr_bitSet_refused hq),
    fun q hq ht => (clears ht).trans (writeSfr_bitClear_refused hq)⟩
  case stkptr =>
    have hw : exec (.bcf f b a) s = clearStkptrBit (advance s 1) b.toNat := clears ht
    rw [hw]
    refine ⟨clearStkptrBit_stkfl_stkov (s := advance s 1), fun hb => ?_, clearStkptrBit_other (s := advance s 1)⟩
    rw [hb]
    exact clearStkptrBit_stkun hs
  case pstatus =>
    have hw : exec (.bcf f b a) s = clearPstatusBit (advance s 1) b.toNat := clears ht
    obtain ⟨hsk, hto, hid, hpd⟩ := clearPstatusBit_named hs
    rw [hw]
    exact ⟨fun hb => hb ▸ hsk, fun hb => hb ▸ hto, fun hb => hb ▸ hid, fun hb => hb ▸ hpd,
      clearPstatusBit_other (s := advance s 1)⟩
  case gie =>
    rw [clears ht, sets ht]
    exact ⟨fun hb => ⟨if_pos hb, if_pos hb⟩, fun hb => ⟨if_neg hb, if_neg hb⟩⟩
  case toggle =>
    have hw : exec (.btgf f b a) s = writeDirect .modify (advance s 1) e _ :=
      fileBit_of_read (memRead_reg (s := advance s 1) he ht) he
    exact hw.trans (writeDirect_systemReg (.inr (.inl rfl)) hq ht)

end Sys2Proof.Proofs
end

section
/-! What comes from outside at a boundary: a reset, a watchdog time-out, an interrupt and its return, and the wake-up of a
halted CPU (`60` R408, R412, R414, R420, R425; `92` D17 to D20). -/

namespace Sys2Proof.Proofs

open Sys2Proof.Machine Sys2Proof.Claims

/-! ## The step at each kind of boundary -/

theorem step_of_reset {s : State} (hw : s.wdtStuck = false) (hr : (inputNow s).reset = true) :
    step s = .next (chipReset (beginStep s)) := by
  simp [step, hw, hr]

theorem step_of_timeOut {s : State} (hw : s.wdtStuck = false) (hr : (inputNow s).reset = false)
    (ht : (inputNow s).wdt = true) (hc : s.cfg.wdtEnabled = true) :
    step s = .next (watchdogTimeOut (beginStep s)) := by
  simp [step, hw, hr, ht, hc]

theorem step_of_stuck {s : State} (h : s.wdtStuck = true) : step s = .fault .watchdogTimeOut := by
  simp [step, h]

/-- A time-out that comes where the product admits none is not taken. -/
theorem timeOut_notAdmitted {s : State} (ht : (inputNow s).wdt = true → s.cfg.wdtEnabled = false) :
    ((inputNow s).wdt && s.cfg.wdtEnabled) = false := by
  cases hb : (inputNow s).wdt with
  | false => rfl
  | true => exact ht hb

section Quiet

variable {s : State} (hw : s.wdtStuck = false) (hr : (inputNow s).reset = false)
  (ht : (inputNow s).wdt = true → s.cfg.wdtEnabled = false)
include hw hr ht

/-- With no reset and no admitted time-out, a halted CPU has the boundary of `60` R425. -/
theorem step_of_halted (hrun : s.run = .idle ∨ s.run = .sleeping) :
    step s = .next (haltedStep s (inputNow s)) := by
  obtain h | h := hrun <;> simp [step, hw, hr, timeOut_notAdmitted ht, h]

/-- A pending request with GIE set is entered, from Running and from a halted state that it wakes (`60` R411, R425). -/
theorem step_of_entersInterrupt (h : EntersInterrupt s) : step s = .next (interruptEntry (beginStep s)) := by
  obtain ⟨-, hq, hg, hrun | ⟨hrun, hk⟩ | ⟨hrun, hk⟩⟩ := h
  · simp [step, hw, hr, timeOut_notAdmitted ht, hrun, hq, hg]
  · rw [step_of_halted hw hr ht (.inl hrun)]
    simp [haltedStep, wakeSet, hrun, hk, hq, hg]
  · rw [step_of_halted hw hr ht (.inr hrun)]
    simp [haltedStep, wakeSet, hrun, hk, hq, hg]

end Quiet

/-! ## Resets and time-outs -/

/-- Settles O12: the reset is tested for before all else but a stuck machine. -/
theorem outsideResetWins : Obligations.OutsideResetWins := fun s hw hr =>
  ⟨_, step_of_reset hw hr,
    chipReset_isReset { s with inputs := s.inputs.tail, tick := s.tick + 1 } _ _ _ _ _ _⟩

/-- Settles O11: the time-out leaves a stuck machine. -/
theorem watchdogTimeOutStops : Obligations.WatchdogTimeOutStops := fun _ hw hr ht hc =>
  ⟨_, _, step_of_timeOut hw hr ht hc, step_of_stuck rfl, rfl⟩

/-! ## Idle and Sleeping -/

/-- The wake-up events of a halted CPU. -/
theorem wakeSet_of_halted {s : State} {k : WakeSet}
    (h : (s.run = .idle ∧ k = s.cfg.idleWake) ∨ (s.run = .sleeping ∧ k = s.cfg.sleepWake)) : wakeSet s = k := by
  obtain ⟨hrun, rfl⟩ | ⟨hrun, rfl⟩ := h <;> simp [wakeSet, hrun]

/-- Settles O10: `haltedStep`, with the event it admits or none. -/
theorem haltedStepWaitsOrWakes : Obligations.HaltedStepWaitsOrWakes := by
  intro s k hw hr ht hrun
  have hk := wakeSet_of_halted hrun
  rw [step_of_halted hw hr ht (hrun.imp And.left And.left), haltedStep, hk]
  refine ⟨fun hirq hwake => ?waits, fun hgie hevent => ⟨(beginStep s).wdt, ?wakes⟩⟩
  case waits =>
    have hnoIrq : ¬((inputNow s).irq && k.irq) = true := by simpa using hirq
    have hnoWake : ¬((inputNow s).wake && k.other) = true := by simpa using hwake
    rw [if_neg hnoIrq, if_neg hnoWake]
  case wakes =>
    by_cases hirq : ((inputNow s).irq && k.irq) = true
    · have hg : ¬s.gie = true := Bool.eq_false_iff.mp (hgie (Bool.and_eq_true_iff.mp hirq))
      rw [if_pos hirq, if_neg hg]
      rfl
    · have hwake : ((inputNow s).wake && k.other) = true :=
        Bool.and_eq_true_iff.mpr (hevent.resolve_left fun h => hirq (Bool.and_eq_true_iff.mpr h))
      rw [if_neg hirq, if_pos hwake]
      rfl

/-! ## Interrupt entry and return -/

/-- The entry is a push; then the shadows are taken if the product does so, GIE falls and the CPU runs at the vector
(`60` R412). -/
theorem interruptEntry_eq_push (s : State) :
    interruptEntry s = pushThen s (returnAddr s) fun u =>
      { shadowed s.cfg.intShadowSave u with
        gie := false, pc := s.cfg.intVector, pcPast := false, run := .running } := by
  unfold interruptEntry
  cases s.cfg.intShadowSave <;> rfl

/-- Settles O9: the three ways the push of the entry ends. -/
theorem stepTakesInterrupt : Obligations.StepTakesInterrupt := by
  intro s henter hr ht
  rw [step_of_entersInterrupt henter.1 hr ht henter, interruptEntry_eq_push]
  refine ⟨(beginStep s).wdt, returnAddr (beginStep s), fun hpast => ?pc, fun hroom => ?room,
    fun hfull hb => ⟨_, rfl, ?reset⟩, fun hfull hb => ?spoiled⟩
  case pc => exact if_neg (Bool.eq_false_iff.mp hpast)
  case room =>
    rw [pushThen_notFull (s := beginStep s) hroom]
    rfl
  case reset =>
    rw [pushThen_reset (s := beginStep s) hfull hb]
    exact chipReset_isReset
      { s with stkov := true, skerr := true, inputs := s.inputs.tail, tick := s.tick + 1 } _ _ _ _ _ _
  case spoiled =>
    rw [pushThen_overflowed (s := beginStep s) hfull hb]
    exact ⟨_, rfl⟩

/-- Settles O56: the entry RETI finds is the interrupted address, and the shadows hold what the entry left in them. -/
theorem interruptThenReturn : Obligations.InterruptThenReturn := by
  intro s u sh henter hr ht hs hfree hpast
  obtain ⟨n, v, hv, hroom, -, -⟩ := stepTakesInterrupt s henter hr ht
  refine ⟨_, hroom hfree, rfl, rfl, fun ⟨hstk, hsp, hw, hst, hb⟩ => ?_⟩
  have hpos : 1 ≤ u.sp := hsp ▸ Nat.succ_pos s.sp
  have htop : u.stk[u.sp - 1]? = some v := by
    rw [hstk, hsp]
    exact pushed_top hs hfree v
  have hback : u.sp - 1 = s.sp := by rw [hsp]; rfl
  refine ⟨_, exec_reti_of_entry hpos htop sh, hv hpast, hback, rfl, ?_⟩
  rintro rfl hsave
  have hshadow : shadowed s.cfg.intShadowSave (pushed s v) = shadowed true (pushed s v) := by rw [hsave]
  simp only [hshadow] at hw hst hb
  exact ⟨hw, hst, hb⟩

end Sys2Proof.Proofs
end

section
/-! The state after power-on, for every product (`10` R46; `92` D18). -/

namespace Sys2Proof.Proofs

open Sys2Proof.Machine Sys2Proof.Claims

theorem dmRead_of_mem_nil {s : State} (h : s.mem = []) (a : DataAddr) : dmRead s a = none := by
  rw [dmRead, h, cellRead]

/-- Settles O14: TOS reads 0 because the stack is empty, and no cell has a value because data memory holds none. -/
theorem resetValues : Obligations.ResetValues := fun _ =>
  ⟨rfl, rfl, rfl, rfl, rfl, tos_empty rfl, dmRead_of_mem_nil rfl⟩

end Sys2Proof.Proofs
end

section
/-! What the decoder answers (`30` R103, R107), and the words of the default product's own table (notes/assumptions/2.md). -/

namespace Sys2Proof.Proofs

open Sys2Proof.Machine Sys2Proof.Claims

/-- Settles O5: what decodes from the start of some words is an image decoded as a whole, with the rest after it. -/
theorem decodedIsWellFormed : Obligations.DecodedIsWellFormed := by
  intro enc ws i
  refine ⟨decodeImage_words, fun rest h => ?_⟩
  obtain ⟨image, himage, rfl⟩ := decode_ok h
  obtain ⟨hwf, hlen⟩ := decodeImage_words himage
  exact ⟨hwf, by rw [List.length_append, hlen]⟩

/-- Settles O1: each word is looked up in the table as it stands. -/
theorem decodeReadsWrittenWords : Obligations.DecodeReadsWrittenWords := by
  unfold Obligations.DecodeReadsWrittenWords
  decide

end Sys2Proof.Proofs
end

section
/-! Where no instruction starts: which fetch error an address gives, and the refusal of the step (`10` R22; `92` D15, D21,
D26). -/

namespace Sys2Proof.Proofs

open Sys2Proof.Machine Sys2Proof.Claims

/-! ## The image at an address that starts no instruction -/

theorem imageAt_beyondProgram {s : State} {a : Nat} (h : s.cfg.progSize ≤ a) : imageAt s a = .error .beyondProgram :=
  if_neg fun hin => Nat.not_lt_of_le h hin.2

section InProgram

variable {s : State} {a : Nat} (hs : a < progSpace) (hp : a < s.cfg.progSize)
include hs hp

theorem imageAt_nothing (h : cellRead s.prog a = none) : imageAt s a = .error .nothingThere := by
  simp [imageAt, hs, hp, h]

theorem imageAt_data {w : Word} (h : cellRead s.prog a = some { kind := .data, word := w }) :
    imageAt s a = .error .dataWord := by
  simp [imageAt, hs, hp, h]

theorem imageAt_second {w : Word} (h : cellRead s.prog a = some { kind := .second, word := w }) :
    imageAt s a = .error .secondWord := by
  simp [imageAt, hs, hp, h]

theorem imageAt_secondMissing {w : Word} (h : cellRead s.prog a = some { kind := .firstOfTwo, word := w })
    (h2 : secondWordAt s a = none) : imageAt s a = .error .secondWordMissing := by
  simp [imageAt, hs, hp, h, h2]

theorem imageAt_twoWords {w w2 : Word} (h : cellRead s.prog a = some { kind := .firstOfTwo, word := w })
    (h2 : secondWordAt s a = some w2) : imageAt s a = .ok [w, w2] := by
  simp [imageAt, hs, hp, h, h2]

end InProgram

/-! ## The fetch -/

theorem fetchAt_of_noImage {s : State} {a : Nat} {q : FetchError} (h : imageAt s a = .error q) :
    fetchAt s a = .error q := by
  simp [fetchAt, h]

theorem fetchAt_of_badWords {s : State} {a : Nat} {ws : List Word} {q : DecodeError} (h : imageAt s a = .ok ws)
    (hd : s.cfg.encoding.decodeImage ws = .error q) : fetchAt s a = .error (.badWords q) := by
  simp [fetchAt, h, hd]

/-! ## The step -/

/-- A request that comes while GIE = 0 is not taken by a running CPU (`60` R411). -/
theorem interrupt_notTaken {s : State} (hq : (inputNow s).irq = true → s.gie = false) :
    ((inputNow s).irq && s.gie) = false := by
  cases hb : (inputNow s).irq with
  | false => rfl
  | true => exact hq hb

/-- Running, with nothing intervening, the step is the instruction's. -/
theorem step_of_running {s : State} (hw : s.wdtStuck = false) (hrun : s.run = .running)
    (hr : (inputNow s).reset = false) (ht : (inputNow s).wdt = true → s.cfg.wdtEnabled = false)
    (hq : (inputNow s).irq = true → s.gie = false) : step s = runInstr s := by
  simp [step, hw, hr, timeOut_notAdmitted ht, hrun, interrupt_notTaken hq]

theorem runInstr_pastEnd {s : State} (h : s.pcPast = true) : runInstr s = .refused .pcPastEnd := if_pos h

theorem runInstr_of_fetchError {s : State} {q : FetchError} (hpast : s.pcPast = false)
    (h : fetchAt s s.pc.toNat = .error q) : runInstr s = .refused (.noInstruction q) := by
  simp [runInstr, hpast, h]

/-- Settles O8: the refusal names the fetch error, and each kind of address gives its own. -/
theorem stepRefusesWithoutInstruction : Obligations.StepRefusesWithoutInstruction := by
  intro s hw hrun hr ht hq
  rw [step_of_running hw hrun hr ht hq]
  refine ⟨runInstr_pastEnd, fun hpast => ?_⟩
  have noImage {q : FetchError} (h : imageAt s s.pc.toNat = .error q) : runInstr s = .refused (.noInstruction q) :=
    runInstr_of_fetchError hpast (fetchAt_of_noImage h)
  have badWords {ws : List Word} {q : DecodeError} (h : imageAt s s.pc.toNat = .ok ws)
      (hd : s.cfg.encoding.decodeImage ws = .error q) : runInstr s = .refused (.noInstruction (.badWords q)) :=
    runInstr_of_fetchError hpast (fetchAt_of_badWords h hd)
  have hs : s.pc.toNat < progSpace := s.pc.isLt
  refine ⟨fun hbeyond => noImage (imageAt_beyondProgram hbeyond), fun hp => ⟨?nothing, ?data, ?second, ?one, ?two⟩⟩
  case nothing => exact fun h => noImage (imageAt_nothing hs hp h)
  case data => exact fun _ h => noImage (imageAt_data hs hp h)
  case second => exact fun _ h => noImage (imageAt_second hs hp h)
  case one => exact fun _ _ h hd => badWords (imageAt_first hs hp h) hd
  case two =>
    exact fun _ h => ⟨fun h2 => noImage (imageAt_secondMissing hs hp h h2),
      fun _ _ h2 hd => badWords (imageAt_twoWords hs hp h h2) hd⟩

end Sys2Proof.Proofs
end

section
/-! ARLC (`40` R203): RLFC with an OV that tells whether bit 7 changed (`92` D10). -/

namespace Sys2Proof.Proofs

open Sys2Proof.Machine Sys2Proof.Claims

/-- OV of ARLC compares bit 7 before and after. -/
theorem arlcResult_ov (fl : Flags) (x : Byte) :
    (arlcResult fl x).flags.ov = true ↔ x.getLsbD 7 ≠ (arlcResult fl x).r.getLsbD 7 := by
  rw [← msb_eq_bit7, ← msb_eq_bit7]
  exact bne_iff_ne

/-- Settles O29: ARLC is `fileFlagged` with `arlcResult`, whose byte is RLFC's. -/
theorem rotateLeftWithOverflow : Obligations.RotateLeftWithOverflow :=
  flaggedRule_of_fileFlagged (fun _ _ _ _ => rfl) fun s x =>
    ⟨shiftInLow_isShiftUp x s.status.c, msb_eq_bit7 x, arlcResult_ov s.status x,
      msb_iff (arlcResult s.status x).r, beq_zero_iff (arlcResult s.status x).r, rfl⟩

end Sys2Proof.Proofs
end

section
/-! The state after power-on is sound, the base case of `stepKeepsSound` (`10` R46; `00` R5). -/

namespace Sys2Proof.Proofs

open Sys2Proof.Machine Sys2Proof.Claims

theorem cfgWf_defaultCfg : cfgWf defaultCfg = true := by decide

/-- At power-on data memory holds no value, the stack has L entries and SP is 0. -/
theorem soundData_resetWith (c : Cfg) : SoundData (State.resetWith c) where
  canonical := rfl
  stack := ⟨List.length_replicate, Nat.zero_le _⟩
  inPlace _ _ hm := absurd hm List.not_mem_nil

theorem resetWith_sound {c : Cfg} (h : cfgWf c = true) : (State.resetWith c).Sound :=
  have hd := soundData_resetWith c
  ⟨h, hd.canonical, rfl, hd.stack, hd.inPlace⟩

/-- Settles O13. -/
theorem resetIsSound : Obligations.ResetIsSound := ⟨resetWith_sound cfgWf_defaultCfg, fun _ => resetWith_sound⟩

end Sys2Proof.Proofs
end
